-- ==== Sys2Proof/Word.lean ====
section
/-! DEFINITION. The word types of VIPCTL (spec/00_scope.md R6, R10): every register, operand and
temporary is an unsigned 32-bit value, a host address an unsigned 64-bit value (ADDR_W = 64, D4). -/

namespace Sys2Proof

/-- An unsigned 32-bit value, "u32" in the spec (R10). -/
abbrev Word := BitVec 32

/-- A host byte address of ADDR_W = 64 bits (R6, R10). -/
abbrev Addr := BitVec 64

/-- One byte of the byte view of a register word (20_memory.md R60). -/
abbrev Byte := BitVec 8

end Sys2Proof
end

