-- ==== Sys2Proof/Config.lean ====
section
/-! DEFINITION. The configuration record of VIPCTL (spec/00_scope.md R6), the identity of an agent
(spec/10_state.md R31), the default profile, and the free values of the model. What a configuration
must satisfy (R7) is checked in Sys2Proof/Machine/ConfigCheck.lean. -/

namespace Sys2Proof

/-- The context an agent runs in: a thread or an interrupt context of its core (R31). -/
inductive Ctx where
  | thread (n : Nat)
  | irq (n : Nat)
deriving DecidableEq, Repr

/-- An agent is a pair (core, ctx) (R31). -/
structure AgentId where
  core : Nat
  ctx  : Ctx
deriving DecidableEq, Repr

/-- INT_MASK_POLARITY (R6, D38): whether a 1 in INTMSK enables or masks a source. -/
inductive IntPolarity where
  | enableHigh
  | maskHigh
deriving DecidableEq, Repr

/-- The OPEN parameters of R6. The parameters the source or a decision fixes (ADDR_W, RST_MASK_A,
RST_MASK_B, RST_SHIFT_B, EXT_FIXUP_MASK, T_SETTLE_US) are constants of Machine/Codec.lean. -/
structure Config where
  /-- OFF_RSTCLK -/
  offRstclk : Nat
  /-- OFF_BLKEN -/
  offBlken : Nat
  /-- OFF_LPCLK -/
  offLpclk : Nat
  /-- OFF_INTSTS -/
  offIntsts : Nat
  /-- OFF_INTMSK -/
  offIntmsk : Nat
  /-- OFF_AXISW -/
  offAxisw : Nat
  /-- WINDOW_SIZE -/
  windowSize : Nat
  /-- RST_AXI_BIT -/
  rstAxiBit : Nat
  /-- RST_ISP_TOP_BIT -/
  rstIspTopBit : Nat
  /-- RST_CSI0_BIT -/
  rstCsi0Bit : Nat
  /-- RST_CSI1_BIT -/
  rstCsi1Bit : Nat
  /-- CLK_ISP_TOP_BIT -/
  clkIspTopBit : Nat
  /-- CLK_AXI_BIT -/
  clkAxiBit : Nat
  /-- CLK_CSI0_BIT -/
  clkCsi0Bit : Nat
  /-- CLK_CSI1_BIT -/
  clkCsi1Bit : Nat
  /-- N_AXI_BUS -/
  nAxiBus : Nat
  /-- EXT_FIXUP_ADDR, or absent (R9) -/
  extFixupAddr : Option Nat
  /-- SETTLE_CYCLES (43_sequencer.md R145); no command reads it -/
  settleCycles : Nat
  /-- N_CORES -/
  nCores : Nat
  /-- AGENTS -/
  agents : List AgentId
  /-- INT_MASK_POLARITY -/
  intMaskPolarity : IntPolarity
deriving DecidableEq, Repr

/-- The default profile of R6. R6 gives no default for SETTLE_CYCLES, AGENTS and INT_MASK_POLARITY
("not used", "see 95"): the three last values are the model's. DESIGN CHOICE, log entry 2. -/
def Config.defaultProfile : Config where
  offRstclk := 0x00
  offBlken := 0x04
  offLpclk := 0x08
  offIntsts := 0x0C
  offIntmsk := 0x10
  offAxisw := 0x14
  windowSize := 0x100
  rstAxiBit := 0
  rstIspTopBit := 1
  rstCsi0Bit := 2
  rstCsi1Bit := 3
  clkIspTopBit := 16
  clkAxiBit := 17
  clkCsi0Bit := 18
  clkCsi1Bit := 19
  nAxiBus := 32
  extFixupAddr := some 0x50000000
  settleCycles := 0
  nCores := 2
  agents := [⟨0, .thread 0⟩]
  intMaskPolarity := .enableHigh

/-! The free values. Each is an uninterpreted function of a counter that State holds, so that each
use draws a value no proof can know. -/

/-- The value a read of an unmodelled window word returns (20_memory.md R68): a draw, chosen afresh.
Applied to `State.drawCount`. Log entry 7. -/
opaque Config.freeRead : Nat → Word

/-- The value of the input int_src_i at a step (10_state.md R50, 20_memory.md R66): under no law.
Applied to `State.tick`. Log entry 6. -/
opaque Config.freeIntSrc : Nat → Word

/-- Which of the enabled agents moves next, where State does not say (20_memory.md R71 (b)): any.
Applied to `State.tick`. Log entry 5. -/
opaque Config.freeTurn : Nat → Nat

end Sys2Proof
end

