-- ==== Sys2Proof/Machine/Codec.lean ====
section
/-! DEFINITION. The fixed parameters and derived constants (spec/00_scope.md R6, R8) and the
BitfieldCodec (spec/30_encoding.md R80 to R86): pure functions between raw words and logical values. -/

namespace Sys2Proof.Machine

/-- RST_MASK_A: the reset bits held in word A (R6). -/
def rstMaskA : Word := 0x0000cfff

/-- RST_MASK_B: the reset bits held in word B (R6). -/
def rstMaskB : Word := 0x00000003

/-- RST_SHIFT_B: the logical position of word B bit 0 (R6). -/
def rstShiftB : Nat := 12

/-- EXT_FIXUP_MASK: bits 21 to 26, which BRINGUP clears in the fixup register (R6). -/
def extFixupMask : Word := 0x07E00000

/-- T_SETTLE_US: the least reset pulse width in microseconds (R6). -/
def tSettleUs : Nat := 20

/-- The word with one bit set. -/
def bit (n : Nat) : Word := 1#32 <<< n

/-- CLK_MASK (R8). -/
def clkMask (c : Config) : Word :=
  bit c.clkIspTopBit ||| bit c.clkAxiBit ||| bit c.clkCsi0Bit ||| bit c.clkCsi1Bit

/-- RSTM_AXI (R8). -/
def rstmAxi (c : Config) : Word := bit c.rstAxiBit

/-- RSTM_ISP (R8). -/
def rstmIsp (c : Config) : Word := bit c.rstIspTopBit

/-- RSTM_CSI0 (R8). -/
def rstmCsi0 (c : Config) : Word := bit c.rstCsi0Bit

/-- RSTM_CSI1 (R8). -/
def rstmCsi1 (c : Config) : Word := bit c.rstCsi1Bit

/-- RST4: the four named reset lines (R8). -/
def rst4 (c : Config) : Word := rstmAxi c ||| rstmIsp c ||| rstmCsi0 c ||| rstmCsi1 c

/-- RST_LOGICAL_MASK (R8). -/
def rstLogicalMask : Word := rstMaskA ||| (rstMaskB <<< rstShiftB)

/-- `clk_decode` (R81): the four clock enables of word A, c[3..0]. -/
def clkDecode (c : Config) (w : Word) : BitVec 4 :=
  BitVec.ofBool (w.getLsbD c.clkCsi1Bit) ++ (BitVec.ofBool (w.getLsbD c.clkCsi0Bit) ++
    (BitVec.ofBool (w.getLsbD c.clkAxiBit) ++ BitVec.ofBool (w.getLsbD c.clkIspTopBit)))

/-- A Boolean placed at a bit position: `zext_32(b) << n` (R81). -/
def placeBit (b : Bool) (n : Nat) : Word := (BitVec.ofBool b).setWidth 32 <<< n

/-- `clk_encode` (R81). -/
def clkEncode (c : Config) (v : BitVec 4) : Word :=
  placeBit (v.getLsbD 0) c.clkIspTopBit ||| placeBit (v.getLsbD 1) c.clkAxiBit |||
    placeBit (v.getLsbD 2) c.clkCsi0Bit ||| placeBit (v.getLsbD 3) c.clkCsi1Bit

/-- `rst_decode` (R82): bits 12 and 13 come from word B only. -/
def rstDecode (a b : Word) : Word := (a &&& rstMaskA) ||| ((b &&& rstMaskB) <<< rstShiftB)

/-- `rst_encode_A` (R83). -/
def rstEncodeA (r : Word) : Word := r &&& rstMaskA

/-- `rst_encode_B` (R83). -/
def rstEncodeB (r : Word) : Word := (r >>> rstShiftB) &&& rstMaskB

/-- `lp_decode` (R84): the identity. -/
def lpDecode (w : Word) : Word := w

/-- `lp_encode` (R84): the identity. -/
def lpEncode (v : Word) : Word := v

/-- The interrupt layout (R85): the identity, for INTSTS and INTMSK. -/
def intDecode (w : Word) : Word := w

/-- The interrupt layout (R85), towards the register: the identity. -/
def intEncode (v : Word) : Word := v

/-- `axi_bit` (R86). -/
def axiBit (bus : Nat) : Word := bit bus

/-- Whether an AXISW word has the bus offline (R86). -/
def axiOffline (w : Word) (bus : Nat) : Bool := decide (w &&& axiBit bus ≠ 0)

/-- The masked write's value (40_register_access.md R102): the bits of `v` under `m`, all others as
read in `old`. -/
def maskedValue (old m v : Word) : Word := (old &&& ~~~m) ||| (v &&& m)

end Sys2Proof.Machine
end

