-- ==== Sys2Proof/Machine/ConfigCheck.lean ====
section
/-! DEFINITION. What a configuration must satisfy (spec/00_scope.md R7; the agents, spec/10_state.md
R31), one named check per constraint. -/

namespace Sys2Proof.Machine

/-- The six register offsets. -/
def offsets (c : Config) : List Nat :=
  [c.offRstclk, c.offBlken, c.offLpclk, c.offIntsts, c.offIntmsk, c.offAxisw]

/-- R7 (1): distinct, multiples of 4, below WINDOW_SIZE. -/
def offsetsOk (c : Config) : Bool :=
  decide (offsets c).Nodup && (offsets c).all fun o => decide (o % 4 = 0 ∧ o < c.windowSize)

/-- R7 (2): WINDOW_SIZE is a positive multiple of 4 and at most 2^ADDR_W. -/
def windowSizeOk (c : Config) : Bool :=
  decide (0 < c.windowSize ∧ c.windowSize % 4 = 0 ∧ c.windowSize ≤ 2 ^ 64)

/-- R7 (3): the four named reset bits are distinct and in 0..15. -/
def rstBitsOk (c : Config) : Bool :=
  let bits := [c.rstAxiBit, c.rstIspTopBit, c.rstCsi0Bit, c.rstCsi1Bit]
  decide bits.Nodup && bits.all fun b => decide (b < 16)

/-- R7 (4): the four clock bits are distinct and in 16..31. -/
def clkBitsOk (c : Config) : Bool :=
  let bits := [c.clkIspTopBit, c.clkAxiBit, c.clkCsi0Bit, c.clkCsi1Bit]
  decide bits.Nodup && bits.all fun b => decide (16 ≤ b ∧ b < 32)

/-- R7 (5): 1 <= N_AXI_BUS <= 32. -/
def busCountOk (c : Config) : Bool := decide (1 ≤ c.nAxiBus ∧ c.nAxiBus ≤ 32)

/-- R7 (6): EXT_FIXUP_ADDR, when present, is a multiple of 4 and below 2^ADDR_W. -/
def fixupAddrOk (c : Config) : Bool :=
  match c.extFixupAddr with
  | none => true
  | some e => decide (e % 4 = 0 ∧ e < 2 ^ 64)

/-- R7: all six constraints; a configuration that breaks one is refused as a whole (R201). -/
def configOk (c : Config) : Bool :=
  offsetsOk c && windowSizeOk c && rstBitsOk c && clkBitsOk c && busCountOk c && fixupAddrOk c

/-- R31: AGENTS is a set (no agent twice) of pairs whose core is in 0..N_CORES-1. DEDUCED, log
entry 16: R7 does not list this condition. -/
def agentSetOk (c : Config) : Bool :=
  decide c.agents.Nodup && c.agents.all fun a => decide (a.core < c.nCores)

/-- The bound on SETTLE_CYCLES of 43_sequencer.md R145: at least ceil(T_SETTLE_US * f_clk_MHz) for a
clock of `num / den` MHz. A hardware sequencer keeps it; no command reads it. -/
def settleCyclesOk (c : Config) (num den : Nat) : Bool :=
  decide (tSettleUs * num ≤ c.settleCycles * den)

end Sys2Proof.Machine
end

