-- ==== Sys2Proof/Syntax.lean ====
section
/-! DEFINITION. The commands of VIPCTL: one constructor per row of spec/opcode_table.json
(spec/30_encoding.md R88). A command word carries operands in one row only, SET_AXI_MODE (R87); every
other operand comes from the issuing agent's latches DATA, MASK and ADDR (R89), which the meanings
read. -/

namespace Sys2Proof

/-- One operation of the opcode map R88. -/
inductive Instr where
  /-- OPC 0x0, BIND (R105) -/
  | bind
  /-- OPC 0x1, GET_ISP_CLOCK (R122) -/
  | getIspClock
  /-- OPC 0x2, SET_ISP_CLOCK (R123) -/
  | setIspClock
  /-- OPC 0x3, GET_LP_CLOCK (R124) -/
  | getLpClock
  /-- OPC 0x4, SET_LP_CLOCK (R125) -/
  | setLpClock
  /-- OPC 0x5, GET_RESET (R133) -/
  | getReset
  /-- OPC 0x6, SET_RESET (R134) -/
  | setReset
  /-- OPC 0x7, TOGGLE_RESET (R150) -/
  | toggleReset
  /-- OPC 0x8, GET_INT_STATUS (R180) -/
  | getIntStatus
  /-- OPC 0x9, GET_INT_MASK (R181) -/
  | getIntMask
  /-- OPC 0xA, SET_INT_MASK (R182) -/
  | setIntMask
  /-- OPC 0xB, BRINGUP (R155) -/
  | bringup
  /-- OPC 0xC, SET_AXI_MODE (R183): BUS = CMD[8:4], OFF = CMD[9] -/
  | setAxiMode (bus : Nat) (offline : Bool)
  /-- OPC 0xD, RAW_READ (R106) -/
  | rawRead
  /-- OPC 0xE, RAW_WRITE_MASKED (R107) -/
  | rawWriteMasked
deriving DecidableEq, Repr

end Sys2Proof
end

