-- ==== Sys2Proof/WellFormed.lean ====
section
/-! DEFINITION. Which instruction terms a command word can spell (spec/30_encoding.md R87): the BUS
field of SET_AXI_MODE has five bits, so a bus id is in 0..31. No other row has an operand in its word. -/

namespace Sys2Proof

/-- The instruction has an encoding (R87). Whether the bus id is below N_AXI_BUS is a precondition of
the command (44_interrupt_axi.md R183), not a matter of form. -/
def Instr.wf : Instr → Bool
  | .bind => true
  | .getIspClock => true
  | .setIspClock => true
  | .getLpClock => true
  | .setLpClock => true
  | .getReset => true
  | .setReset => true
  | .toggleReset => true
  | .getIntStatus => true
  | .getIntMask => true
  | .setIntMask => true
  | .bringup => true
  | .setAxiMode bus _ => decide (bus < 32)
  | .rawRead => true
  | .rawWriteMasked => true

end Sys2Proof
end

