-- ==== Sys2Proof/Decode.lean ====
section
/-! DEFINITION. The command word (spec/30_encoding.md Part 2): the decoder, total on every u32
(R88, R90, R91), the encoder written from the same table (R87), and the command record an agent
issues (R34, R87). -/

namespace Sys2Proof

/-- Why a command word spells no operation (60_exceptions.md R201). -/
inductive RefuseReason where
  /-- RSV_OPCODE: OPC = 0xF (R90) -/
  | rsvOpcode
  /-- RSV_FIELD: a reserved command field is not zero (R91) -/
  | rsvField
deriving DecidableEq, Repr

/-- What the decoder reads from a word: an operation, or a reason for refusing it (R91). -/
inductive Decoded where
  | op (i : Instr)
  | refused (r : RefuseReason)
deriving DecidableEq, Repr

/-- Field OPC, bits 3:0 (R87). -/
def opcField (w : Word) : BitVec 4 := w.extractLsb' 0 4

/-- Field BUS, bits 8:4 (R87). -/
def busField (w : Word) : BitVec 5 := w.extractLsb' 4 5

/-- Field OFF, bit 9 (R87). -/
def offField (w : Word) : Bool := w.getLsbD 9

/-- Fields BUS and OFF together, bits 9:4. -/
def operandField (w : Word) : BitVec 6 := w.extractLsb' 4 6

/-- The reserved field, bits 31:10 (R87). -/
def reservedField (w : Word) : BitVec 22 := w.extractLsb' 10 22

/-- The opcode map R88, for the words whose other fields are zero; OPC 0xC takes its operands from
the word, and OPC 0xF spells nothing. -/
def opcodeMap (opc : BitVec 4) (bus : BitVec 5) (off : Bool) : Option Instr :=
  match opc.toNat with
  | 0x0 => some .bind
  | 0x1 => some .getIspClock
  | 0x2 => some .setIspClock
  | 0x3 => some .getLpClock
  | 0x4 => some .setLpClock
  | 0x5 => some .getReset
  | 0x6 => some .setReset
  | 0x7 => some .toggleReset
  | 0x8 => some .getIntStatus
  | 0x9 => some .getIntMask
  | 0xA => some .setIntMask
  | 0xB => some .bringup
  | 0xC => some (.setAxiMode bus.toNat off)
  | 0xD => some .rawRead
  | 0xE => some .rawWriteMasked
  | _ => none

/-- The decoder (R88 to R91), in the order of 60_exceptions.md R204: RSV_OPCODE before RSV_FIELD. -/
def decode (w : Word) : Decoded :=
  match opcodeMap (opcField w) (busField w) (offField w) with
  | none => .refused .rsvOpcode
  | some i =>
    if reservedField w ≠ 0 then .refused .rsvField
    else if opcField w ≠ 0xC ∧ operandField w ≠ 0 then .refused .rsvField
    else .op i

/-- The OPC value of each operation (R88). -/
def Instr.opcode : Instr → BitVec 4
  | .bind => 0x0
  | .getIspClock => 0x1
  | .setIspClock => 0x2
  | .getLpClock => 0x3
  | .setLpClock => 0x4
  | .getReset => 0x5
  | .setReset => 0x6
  | .toggleReset => 0x7
  | .getIntStatus => 0x8
  | .getIntMask => 0x9
  | .setIntMask => 0xA
  | .bringup => 0xB
  | .setAxiMode _ _ => 0xC
  | .rawRead => 0xD
  | .rawWriteMasked => 0xE

/-- A command word put together from its fields (R87), reserved bits zero. -/
def packWord (opc : BitVec 4) (bus : BitVec 5) (off : Bool) : Word :=
  (0 : BitVec 22) ++ (BitVec.ofBool off ++ (bus ++ opc))

/-- The encoder: the word of an instruction (R87, R88). -/
def encode (i : Instr) : Word :=
  match i with
  | .setAxiMode bus off => packWord i.opcode (BitVec.ofNat 5 bus) off
  | _ => packWord i.opcode 0 false

/-- What an agent issues: the command word with its three operand latches (R34, R87). -/
structure Command where
  cmd  : Word
  data : Word
  mask : Word
  addr : Addr
deriving DecidableEq, Repr

/-- A command read from a number whose low 32 bits are the command word and whose further bits are
DATA, MASK and ADDR in that order. The spec gives the four latches no common layout: the order is a
DESIGN CHOICE, log entry 13. -/
def commandOfBits (v : Nat) : Command where
  cmd := BitVec.ofNat 32 v
  data := BitVec.ofNat 32 (v / 2 ^ 32)
  mask := BitVec.ofNat 32 (v / 2 ^ 64)
  addr := BitVec.ofNat 64 (v / 2 ^ 96)

/-- The instruction the decoder reads from an instruction whose `nbits` bits are `w`, numbered as
spec/opcode_table.json numbers them; every bit above `nbits` is 0. -/
def decodeTableWord (nbits w : Nat) : Option Instr :=
  match decode (commandOfBits (w % 2 ^ nbits)).cmd with
  | .op i => some i
  | .refused _ => none

end Sys2Proof
end

