-- ==== Sys2Proof/Machine/Micro.lean ====
section
/-! DEFINITION. The types of the micro-op layer (spec/40_register_access.md R100): registers,
temporaries, expressions, micro-ops; and the guard, the fault codes and the events (spec/10_state.md
R36, spec/60_exceptions.md R202, spec/20_memory.md R74). -/

namespace Sys2Proof.Machine

/-- The six window registers (10_state.md R38). -/
inductive Reg where
  | rstclk | blken | lpclk | intsts | intmsk | axisw
deriving DecidableEq, Repr

/-- The names of the four temporaries x[0] to x[3] (10_state.md R32). -/
inductive Tmp where
  | x0 | x1 | x2 | x3
deriving DecidableEq, Repr

/-- The expressions of R100: constants (a configuration constant is written as its value), the
temporaries, the latches DATA and MASK, the operators of 00_scope.md R11 and the codec functions of
30_encoding.md R81 to R83. ADDR occurs in address positions only (`Place`). -/
inductive Expr where
  | const (w : Word)
  | x (i : Tmp)
  | data
  | mask
  | and (a b : Expr)
  | or (a b : Expr)
  | xor (a b : Expr)
  | not (a : Expr)
  | shl (a : Expr) (n : Nat)
  | shr (a : Expr) (n : Nat)
  /-- `zext_32(clk_decode(a))` -/
  | clkDecode (a : Expr)
  /-- `clk_encode(a[3:0])` -/
  | clkEncode (a : Expr)
  /-- `rst_decode(a, b)` -/
  | rstDecode (a b : Expr)
deriving DecidableEq, Repr

/-- The addresses a micro-op can name: a register of the window (A, B, L, S, M, X of 00_scope.md R8),
the word at BASE + ADDR (R106), and EXT_FIXUP_ADDR (43_sequencer.md R162). -/
inductive Place where
  | reg (r : Reg)
  | raw
  | fixup
deriving DecidableEq, Repr

/-- The micro-ops of R100. BINDOP is used with the expression ADDR only (R105). -/
inductive MicroOp where
  | ld (i : Tmp) (p : Place)
  | st (p : Place) (e : Expr)
  | set (i : Tmp) (e : Expr)
  | ret (e : Expr)
  | bindop
  | acq
  | rel
  | wait (us : Nat)
deriving DecidableEq, Repr

/-- The SyncGuard (10_state.md R36). -/
inductive Guard where
  | free
  | held (a : AgentId)
deriving DecidableEq, Repr

/-- The fault codes of 60_exceptions.md R202. -/
inductive FaultCode where
  | unbound | rebind | misaligned | outOfWindow | badBus | fixupUnmapped
deriving DecidableEq, Repr

/-- The events of 20_memory.md R74. -/
inductive Event where
  | bind (a : AgentId) (base : Addr)
  | rd (a : AgentId) (addr : Addr) (v : Word)
  | wr (a : AgentId) (addr : Addr) (v : Word)
  | acq (a : AgentId)
  | rel (a : AgentId)
  | wait (a : AgentId) (us : Nat)
  | ret (a : AgentId) (v : Word)
  | fault (a : AgentId) (code : FaultCode)
  | refuse (a : AgentId) (reason : RefuseReason)
deriving DecidableEq, Repr

end Sys2Proof.Machine
end

