-- ==== Sys2Proof/Machine/State.lean ====
section
/-! DEFINITION. The state of VIPCTL (spec/10_state.md R30 to R46, spec/20_memory.md R74,
spec/70_reset_and_hazards.md R230), the reasons a step can stop, and the state after reset. -/

namespace Sys2Proof.Machine

/-- The window registers that hold stored state (10_state.md R38; 70_reset_and_hazards.md R230: INTSTS
has none, its value is the input `State.intSrc`). -/
structure Csr where
  /-- RSTCLK, word A (R39) -/
  rstclk : Word
  /-- BLKEN, word B (R40) -/
  blken : Word
  /-- LPCLK (R41) -/
  lpclk : Word
  /-- INTMSK (R43) -/
  intmsk : Word
  /-- AXISW (R44) -/
  axisw : Word
deriving DecidableEq, Repr

/-- The four temporaries of an agent (10_state.md R32). -/
structure Temps where
  x0 : Word
  x1 : Word
  x2 : Word
  x3 : Word
deriving DecidableEq, Repr

/-- The per-agent state (10_state.md R32 to R34, R37) and the agent's program. -/
structure Agent where
  /-- the command list; the spec's input, changed by no step (R33; log entry 4) -/
  prog : List Command
  /-- the command index (R33) -/
  cpc : Nat
  /-- the micro-program of the running command, empty when none runs (R33, R103) -/
  uprog : List MicroOp
  /-- the micro-program counter (R33) -/
  upc : Nat
  /-- latch CMD (R34) -/
  cmd : Word
  /-- latch DATA (R34) -/
  data : Word
  /-- latch MASK (R34) -/
  mask : Word
  /-- latch ADDR (R34) -/
  addr : Addr
  /-- result latch RDATA (R34) -/
  rdata : Word
  /-- temporaries x[0..3] (R32) -/
  tmp : Temps
  /-- sticky fault record (R37) -/
  fault : Option FaultCode
  /-- sticky refusal mark (R37) -/
  refused : Option RefuseReason
deriving DecidableEq, Repr

/-- The machine state (10_state.md R30) with the configuration, the input int_src_i and the model's
own scheduling fields. -/
structure State where
  /-- the configuration (00_scope.md R6); changed by no step (log entry 1) -/
  cfg : Config
  /-- the window is bound (R35) -/
  bound : Bool
  /-- BASE (R35) -/
  base : Addr
  /-- the stored window registers (R38) -/
  csr : Csr
  /-- the external fixup register (R45) -/
  ext : Word
  /-- the SyncGuard (R36) -/
  guard : Guard
  /-- each agent's state (R30, R31) -/
  agents : List (AgentId × Agent)
  /-- the event history, oldest first (20_memory.md R74) -/
  history : List Event
  /-- the input int_src_i at this step (R50; log entry 6) -/
  intSrc : Word
  /-- the samples of int_src_i that the next steps take; free where it ends (log entry 6) -/
  intIn : List Word
  /-- the agent whose step this is (log entry 5) -/
  turn : AgentId
  /-- the agents that move next; free where it ends (log entry 5) -/
  turns : List AgentId
  /-- steps taken: the counter behind the free turn and the free sample (log entries 5 and 6) -/
  tick : Nat
  /-- reads of unmodelled words taken: the counter behind their free values (log entry 7) -/
  drawCount : Nat
deriving DecidableEq, Repr

/-- Why the machine stops. A fault of the SPEC (60_exceptions.md R200) is no such stop: it is a next
state with the agent's sticky record set. -/
inductive Fault where
  /-- Raised by a bus access whose address is neither a window word nor the fixup word, which do not
  exist for VIPCTL (10_state.md R48). Safe: no admitted command makes such an access. -/
  | noSuchAddress
  /-- Raised by `step` when the run has ended in a final state (70_reset_and_hazards.md R247): no agent
  has a command left. Safe. -/
  | runFinal
  /-- Raised by `step` when no agent has an enabled step and some agent has a fault or refusal: the run
  has failed (R247). Safe. -/
  | runFailed
  /-- Raised by `step` when no agent has an enabled step and the run neither ended nor failed: an agent
  is held for ever (R247, 43_sequencer.md R141). Safe. -/
  | runStuck
deriving DecidableEq, Repr

/-- Why the machine gives no meaning. A refused command WORD (60_exceptions.md R201) is a next state
with the agent's sticky mark set. -/
inductive Refusal where
  /-- An instruction whose arm in Dispatch.lean has no meaning yet. Safe. -/
  | notModelled (mnemonic : String)
  /-- BAD_CONFIG: raised by `step` when the configuration breaks 00_scope.md R7; it is refused as a
  whole before any agent steps (60_exceptions.md R201). Safe. -/
  | badConfig
  /-- Raised by `step` when AGENTS is no set of agents as 10_state.md R31 describes them. Safe. -/
  | badAgents
deriving DecidableEq, Repr

/-- The per-agent state at power-on (70_reset_and_hazards.md R230). The latches, temporaries and RDATA
are unspecified there; 0 is a DESIGN CHOICE, log entry 3. -/
def Agent.reset : Agent where
  prog := []
  cpc := 0
  uprog := []
  upc := 0
  cmd := 0
  data := 0
  mask := 0
  addr := 0
  rdata := 0
  tmp := ⟨0, 0, 0, 0⟩
  fault := none
  refused := none

/-- The machine right after power-on (70_reset_and_hazards.md R230), under the default profile. The
registers, `ext` and BASE are draws there; 0 is a DESIGN CHOICE, log entry 3. Every other power-on
state is one of `State.PowerOn` (Safety.lean), over which the statements quantify. -/
def State.reset : State where
  cfg := Config.defaultProfile
  bound := false
  base := 0
  csr := ⟨0, 0, 0, 0, 0⟩
  ext := 0
  guard := .free
  agents := Config.defaultProfile.agents.map fun a => (a, Agent.reset)
  history := []
  intSrc := 0
  intIn := []
  turn := ⟨0, .thread 0⟩
  turns := []
  tick := 0
  drawCount := 0

end Sys2Proof.Machine
end

