-- ==== Sys2Proof/Machine/Operands.lean ====
section
/-! DEFINITION. The operands of a micro-op: the value of an expression over the agent's temporaries and
latches (spec/40_register_access.md R100, spec/00_scope.md R11), and the byte address a place names
(R8, R101). -/

namespace Sys2Proof.Machine

/-- Reading a temporary (10_state.md R32). -/
def Temps.get (t : Temps) : Tmp → Word
  | .x0 => t.x0
  | .x1 => t.x1
  | .x2 => t.x2
  | .x3 => t.x3

/-- Writing a temporary (10_state.md R32). -/
def Temps.set (t : Temps) (i : Tmp) (v : Word) : Temps :=
  match i with
  | .x0 => { t with x0 := v }
  | .x1 => { t with x1 := v }
  | .x2 => { t with x2 := v }
  | .x3 => { t with x3 := v }

/-- `eval(e)` over the agent's current temporaries and latches (R100). -/
def eval (c : Config) (g : Agent) : Expr → Word
  | .const w => w
  | .x i => g.tmp.get i
  | .data => g.data
  | .mask => g.mask
  | .and a b => eval c g a &&& eval c g b
  | .or a b => eval c g a ||| eval c g b
  | .xor a b => eval c g a ^^^ eval c g b
  | .not a => ~~~ eval c g a
  | .shl a n => eval c g a <<< n
  | .shr a n => eval c g a >>> n
  | .clkDecode a => (clkDecode c (eval c g a)).setWidth 32
  | .clkEncode a => clkEncode c ((eval c g a).extractLsb' 0 4)
  | .rstDecode a b => rstDecode (eval c g a) (eval c g b)

/-- The offset of a register in the window (00_scope.md R6). -/
def regOffset (c : Config) : Reg → Nat
  | .rstclk => c.offRstclk
  | .blken => c.offBlken
  | .lpclk => c.offLpclk
  | .intsts => c.offIntsts
  | .intmsk => c.offIntmsk
  | .axisw => c.offAxisw

/-- The register at an offset, if the offset is one of the six. -/
def regAt (c : Config) (off : Nat) : Option Reg :=
  if off = c.offRstclk then some .rstclk
  else if off = c.offBlken then some .blken
  else if off = c.offLpclk then some .lpclk
  else if off = c.offIntsts then some .intsts
  else if off = c.offIntmsk then some .intmsk
  else if off = c.offAxisw then some .axisw
  else none

/-- The address of a register: BASE plus its offset, modulo 2^ADDR_W (00_scope.md R8, R11). -/
def State.regAddr (s : State) (r : Reg) : Addr := s.base + BitVec.ofNat 64 (regOffset s.cfg r)

/-- The byte address a place names for an agent with these latches; none only for EXT_FIXUP_ADDR when
it is absent. -/
def State.placeAddr (s : State) (g : Agent) : Place → Option Addr
  | .reg r => some (s.regAddr r)
  | .raw => some (s.base + g.addr)
  | .fixup => s.cfg.extFixupAddr.map (BitVec.ofNat 64)

end Sys2Proof.Machine
end

