-- ==== Sys2Proof/Machine/Ops.lean ====
section
/-! DEFINITION. The shared operations over the state: an agent's record, the event history, the bus
accesses MemRead and MemWrite (spec/20_memory.md R60 to R70), the logical views (spec/10_state.md R47),
taking a fault and a refusal (spec/60_exceptions.md R200, R201), the precondition checks (R202 to R204)
and who may take a step (spec/43_sequencer.md R141 to R143). -/

namespace Sys2Proof.Machine

/-! ## The agents -/

/-- The record of an agent in the list. -/
def lookupAgent : List (AgentId × Agent) → AgentId → Option Agent
  | [], _ => none
  | (b, g) :: l, a => if a = b then some g else lookupAgent l a

/-- The record of an agent; for an id that is no agent of the machine, the record of an idle agent
without a program. -/
def State.agent (s : State) (a : AgentId) : Agent := (lookupAgent s.agents a).getD Agent.reset

/-- Changing one agent's record; the other agents' records are private to them (10_state.md R32, R213). -/
def State.modAgent (s : State) (a : AgentId) (f : Agent → Agent) : State :=
  { s with agents := s.agents.map fun p => if p.1 = a then (p.1, f p.2) else p }

/-- Appending an event to the history (20_memory.md R74). -/
def State.record (s : State) (e : Event) : State := { s with history := s.history ++ [e] }

/-- An agent with no running command (10_state.md R33). -/
def Agent.idle (g : Agent) : Bool := decide (g.uprog = [])

/-- A fault or a refusal stops the agent (10_state.md R37). -/
def Agent.stopped (g : Agent) : Bool := g.fault.isSome || g.refused.isSome

/-- The agent has finished: its whole list has run and no command is running (10_state.md R33). -/
def Agent.finished (g : Agent) : Bool := g.idle && decide (g.cpc = g.prog.length)

/-! ## The register window and the fixup register -/

/-- What a byte address names (10_state.md R48): a register, another word of the window (R46), or the
fixup register. -/
inductive Target where
  | reg (r : Reg)
  | unmodelled
  | ext
deriving DecidableEq, Repr

/-- The address lies in the bound window [BASE, BASE + WINDOW_SIZE) (20_memory.md R75). -/
def State.inWindow (s : State) (ad : Addr) : Bool :=
  s.bound && decide (s.base.toNat ≤ ad.toNat ∧ ad.toNat < s.base.toNat + s.cfg.windowSize)

/-- The target of an aligned word address, none where nothing exists (10_state.md R48). The window is
looked at first; the two cannot both match for an admitted BRINGUP (R203; log entry 11). -/
def State.target (s : State) (ad : Addr) : Option Target :=
  if ad.toNat % 4 ≠ 0 then none
  else if s.inWindow ad then
    match regAt s.cfg (ad.toNat - s.base.toNat) with
    | some r => some (.reg r)
    | none => some .unmodelled
  else if s.cfg.extFixupAddr = some ad.toNat then some .ext
  else none

/-- The value of a register: storage, and for INTSTS the input of this instant (R65, R66). -/
def State.readReg (s : State) : Reg → Word
  | .rstclk => s.csr.rstclk
  | .blken => s.csr.blken
  | .lpclk => s.csr.lpclk
  | .intsts => s.intSrc
  | .intmsk => s.csr.intmsk
  | .axisw => s.csr.axisw

/-- Storing into a register; a write to INTSTS changes nothing (R65, R67). -/
def State.writeReg (s : State) (r : Reg) (v : Word) : State :=
  match r with
  | .rstclk => { s with csr := { s.csr with rstclk := v } }
  | .blken => { s with csr := { s.csr with blken := v } }
  | .lpclk => { s with csr := { s.csr with lpclk := v } }
  | .intsts => s
  | .intmsk => { s with csr := { s.csr with intmsk := v } }
  | .axisw => { s with csr := { s.csr with axisw := v } }

/-- `MemRead(addr, 4)` (00_scope.md R13; 20_memory.md R65, R66, R68, R69): the value, and the state with
the draw of an unmodelled word taken. None where the address does not exist. -/
def State.memRead (s : State) (ad : Addr) : Option (Word × State) :=
  match s.target ad with
  | some (.reg r) => some (s.readReg r, s)
  | some .unmodelled => some (Config.freeRead s.drawCount, { s with drawCount := s.drawCount + 1 })
  | some .ext => some (s.ext, s)
  | none => none

/-- `MemWrite(addr, 4, v)` (00_scope.md R13; 20_memory.md R65, R67, R68, R69). -/
def State.memWrite (s : State) (ad : Addr) (v : Word) : Option State :=
  match s.target ad with
  | some (.reg r) => some (s.writeReg r v)
  | some .unmodelled => some s
  | some .ext => some { s with ext := v }
  | none => none

/-- The stored word at an aligned address, where the spec gives the word stored state. -/
def State.storedWord (s : State) (ad : Addr) : Option Word :=
  match s.target ad with
  | some (.reg .rstclk) => some s.csr.rstclk
  | some (.reg .blken) => some s.csr.blken
  | some (.reg .lpclk) => some s.csr.lpclk
  | some (.reg .intsts) => none
  | some (.reg .intmsk) => some s.csr.intmsk
  | some (.reg .axisw) => some s.csr.axisw
  | some .unmodelled => none
  | some .ext => some s.ext
  | none => none

/-- Byte `k` of a word, little-endian: bits 8k+7 to 8k (20_memory.md R60). -/
def byteOf (w : Word) (k : Nat) : Byte := w.extractLsb' (8 * k) 8

/-- The byte view of the stored words (20_memory.md R60): the byte at `a + k` of the word at `a`. -/
def State.byteAt (s : State) (ad : Addr) : Option Byte :=
  (s.storedWord (BitVec.ofNat 64 (ad.toNat - ad.toNat % 4))).map fun w => byteOf w (ad.toNat % 4)

/-! ## Logical views -/

/-- ResetState (10_state.md R47). -/
def State.resetState (s : State) : Word := rstDecode s.csr.rstclk s.csr.blken

/-- ClockState (10_state.md R47). -/
def State.clockState (s : State) : BitVec 4 := clkDecode s.cfg s.csr.rstclk

/-! ## Faults and refusals -/

/-- The code of a fault (R202). -/
def FaultCode.code : FaultCode → Nat
  | .unbound => 1
  | .rebind => 2
  | .misaligned => 3
  | .outOfWindow => 4
  | .badBus => 5
  | .fixupUnmapped => 6

/-- `raise Fault(code)` by an agent (60_exceptions.md R200): the event, the sticky record; `cpc`, the
latches, the registers, the guard and the binding stay. There is no return from it (R207). -/
def State.raiseFault (s : State) (a : AgentId) (code : FaultCode) : State :=
  (s.modAgent a fun g => { g with fault := some code }).record (.fault a code)

/-- `refuse(reason)` by an agent (60_exceptions.md R201). -/
def State.refuse (s : State) (a : AgentId) (reason : RefuseReason) : State :=
  (s.modAgent a fun g => { g with refused := some reason }).record (.refuse a reason)

/-- The first precondition that fails, in the order given (60_exceptions.md R204). -/
def firstFault : List (Option FaultCode) → Option FaultCode
  | [] => none
  | some f :: _ => some f
  | none :: l => firstFault l

/-- UNBOUND: `bound = false` (R202). -/
def State.checkBound (s : State) : Option FaultCode := if s.bound then none else some .unbound

/-- REBIND: `bound = true` (R202). -/
def State.checkUnbound (s : State) : Option FaultCode := if s.bound then some .rebind else none

/-- MISALIGNED: not a multiple of 4 (R202). -/
def checkAligned (ad : Addr) : Option FaultCode :=
  if ad.toNat % 4 = 0 then none else some .misaligned

/-- OUT_OF_WINDOW for a base: `base + WINDOW_SIZE > 2^ADDR_W` (R202). -/
def State.checkBaseFits (s : State) (base : Addr) : Option FaultCode :=
  if base.toNat + s.cfg.windowSize ≤ 2 ^ 64 then none else some .outOfWindow

/-- OUT_OF_WINDOW for an offset: `offset >= WINDOW_SIZE` (R202). -/
def State.checkOffset (s : State) (off : Addr) : Option FaultCode :=
  if off.toNat < s.cfg.windowSize then none else some .outOfWindow

/-- BAD_BUS: `bus >= N_AXI_BUS` (R202). -/
def State.checkBus (s : State) (bus : Nat) : Option FaultCode :=
  if bus < s.cfg.nAxiBus then none else some .badBus

/-- FIXUP_UNMAPPED: EXT_FIXUP_ADDR is absent or lies in [BASE, BASE + WINDOW_SIZE) (R203). -/
def State.checkFixup (s : State) : Option FaultCode :=
  match s.cfg.extFixupAddr with
  | none => some .fixupUnmapped
  | some e =>
    if s.base.toNat ≤ e ∧ e < s.base.toNat + s.cfg.windowSize then some .fixupUnmapped else none

/-! ## Who may take a step -/

/-- Same-core exclusion (43_sequencer.md R143): the guard is held by another agent of this core. -/
def State.excluded (s : State) (a : AgentId) : Bool :=
  match s.guard with
  | .free => false
  | .held g => decide (a ≠ g ∧ a.core = g.core)

/-- ACQ has a step only while the guard is free, REL only for the holder (R141, R142); every other
micro-op always has one (R146). -/
def State.opEnabled (s : State) (a : AgentId) : MicroOp → Bool
  | .ld _ _ => true
  | .st _ _ => true
  | .set _ _ => true
  | .ret _ => true
  | .bindop => true
  | .acq => decide (s.guard = .free)
  | .rel => decide (s.guard = .held a)
  | .wait _ => true

/-- The agent has something to do next: a command to issue, or a micro-op that has a step. -/
def State.hasWork (s : State) (a : AgentId) (g : Agent) : Bool :=
  if g.idle then decide (g.cpc < g.prog.length)
  else match g.uprog[g.upc]? with
    | none => false
    | some op => s.opEnabled a op

/-- The agent has an enabled step (20_memory.md R71 (b), 40_register_access.md R103): it is an agent of
the machine, not stopped (R200), not excluded (R143), and has work. -/
def State.enabled (s : State) (a : AgentId) : Bool :=
  match lookupAgent s.agents a with
  | none => false
  | some g => !g.stopped && !s.excluded a && s.hasWork a g

end Sys2Proof.Machine
end

