-- ==== Sys2Proof/Machine/MicroStep.lean ====
section
/-! DEFINITION. One step of a command (spec/40_register_access.md R100 to R104): the issue step and the
micro-ops. Every meaning is one call of `commandStep`. -/

namespace Sys2Proof.Machine

/-- What a masked write stores (40_register_access.md R102): the bits of `v` under `m`, every other bit as
x[3] holds it. -/
def maskedExpr (m v : Expr) : Expr := .or (.and (.x .x3) (.not m)) (.and v m)

/-- The masked write macro (40_register_access.md R102): two micro-ops, not one. -/
def maskedWrite (p : Place) (m v : Expr) : List MicroOp := [.ld .x3 p, .st p (maskedExpr m v)]

/-- The micro-program counter moves past the micro-op just run; in the same step as the last micro-op the
command completes (R103). -/
def Agent.advance (g : Agent) : Agent :=
  if g.upc + 1 = g.uprog.length then
    { g with upc := g.upc + 1, uprog := [], cpc := g.cpc + 1 }
  else { g with upc := g.upc + 1 }

/-- `LD i, addr` (R100). -/
def runLd (s : State) (a : AgentId) (i : Tmp) (p : Place) : Host.Outcome State Fault Refusal :=
  match s.placeAddr (s.agent a) p with
  | none => .fault .noSuchAddress
  | some ad =>
    match s.memRead ad with
    | none => .fault .noSuchAddress
    | some (v, t) =>
      .next ((t.modAgent a fun g => Agent.advance { g with tmp := g.tmp.set i v }).record (.rd a ad v))

/-- `ST addr, e` (R100). -/
def runSt (s : State) (a : AgentId) (p : Place) (e : Expr) : Host.Outcome State Fault Refusal :=
  match s.placeAddr (s.agent a) p with
  | none => .fault .noSuchAddress
  | some ad =>
    match s.memWrite ad (eval s.cfg (s.agent a) e) with
    | none => .fault .noSuchAddress
    | some t => .next ((t.modAgent a Agent.advance).record (.wr a ad (eval s.cfg (s.agent a) e)))

/-- One micro-op of an agent's running command (R100; 43_sequencer.md R141, R142, R145). ACQ and REL are
run only where they have a step (`State.opEnabled`). -/
def runOp (s : State) (a : AgentId) : MicroOp → Host.Outcome State Fault Refusal
  | .ld i p => runLd s a i p
  | .st p e => runSt s a p e
  | .set i e =>
    .next (s.modAgent a fun g =>
      Agent.advance { g with tmp := g.tmp.set i (eval s.cfg (s.agent a) e) })
  | .ret e =>
    .next ((s.modAgent a fun g =>
      Agent.advance { g with rdata := eval s.cfg (s.agent a) e }).record
        (.ret a (eval s.cfg (s.agent a) e)))
  | .bindop =>
    .next (({ s with bound := true, base := (s.agent a).addr }.modAgent a Agent.advance).record
      (.bind a (s.agent a).addr))
  | .acq => .next (({ s with guard := .held a }.modAgent a Agent.advance).record (.acq a))
  | .rel => .next (({ s with guard := .free }.modAgent a Agent.advance).record (.rel a))
  | .wait us => .next ((s.modAgent a Agent.advance).record (.wait a us))

/-- Parts 3 and 4 of the issue step (R103): a failed precondition faults the agent; otherwise the
micro-program is set up. Parts 1 and 2, loading the latches and decoding, are `step`'s. -/
def issue (s : State) (a : AgentId) (check : Option FaultCode) (prog : List MicroOp) : State :=
  match check with
  | some code => s.raiseFault a code
  | none => s.modAgent a fun g => { g with uprog := prog, upc := 0 }

/-- One step of a command by the agent whose turn it is: the issue step when it is idle, else the next
micro-op of the command it runs. An agent with no enabled step takes none: nothing changes (R141, R143,
60_exceptions.md R200; log entry 9). -/
def commandStep (check : Option FaultCode) (prog : List MicroOp) (s : State) :
    Host.Outcome State Fault Refusal :=
  if s.enabled s.turn then
    if (s.agent s.turn).idle then .next (issue s s.turn check prog)
    else match (s.agent s.turn).uprog[(s.agent s.turn).upc]? with
      | none => .next s
      | some op => runOp s s.turn op
  else .next s

end Sys2Proof.Machine
end

