-- ==== Sys2Proof/Machine/Clock.lean ====
section
/-! DEFINITION. The clock-gating commands (spec/41_clock.md R122 to R125). -/

namespace Sys2Proof.Machine

/-- GET_ISP_CLOCK's micro-program (R122). -/
def getIspClockProg : List MicroOp := [.ld .x0 (.reg .rstclk), .ret (.clkDecode (.x .x0))]

/-- GET_ISP_CLOCK (R122). -/
def execGetIspClock (s : State) : Host.Outcome State Fault Refusal :=
  commandStep s.checkBound getIspClockProg s

/-- SETCLK(c) (43_sequencer.md section 1; R123): a masked write of the four clock bits of word A. -/
def setClk (c : Config) (v : Expr) : List MicroOp :=
  maskedWrite (.reg .rstclk) (.const (clkMask c)) (.clkEncode v)

/-- SET_ISP_CLOCK's micro-program (R123): c = DATA[3:0]. -/
def setIspClockProg (c : Config) : List MicroOp := setClk c .data

/-- SET_ISP_CLOCK (R123). -/
def execSetIspClock (s : State) : Host.Outcome State Fault Refusal :=
  commandStep s.checkBound (setIspClockProg s.cfg) s

/-- GET_LP_CLOCK's micro-program (R124). -/
def getLpClockProg : List MicroOp := [.ld .x0 (.reg .lpclk), .ret (.x .x0)]

/-- GET_LP_CLOCK (R124). -/
def execGetLpClock (s : State) : Host.Outcome State Fault Refusal :=
  commandStep s.checkBound getLpClockProg s

/-- SET_LP_CLOCK's micro-program (R125): a full-word write, no read first. -/
def setLpClockProg : List MicroOp := [.st (.reg .lpclk) .data]

/-- SET_LP_CLOCK (R125). -/
def execSetLpClock (s : State) : Host.Outcome State Fault Refusal :=
  commandStep s.checkBound setLpClockProg s

end Sys2Proof.Machine
end

