-- ==== Sys2Proof/Machine/InterruptAxi.lean ====
section
/-! DEFINITION. The interrupt and AXI-mode commands (spec/44_interrupt_axi.md R180 to R183). -/

namespace Sys2Proof.Machine

/-- GET_INT_STATUS's micro-program (R180). -/
def getIntStatusProg : List MicroOp := [.ld .x0 (.reg .intsts), .ret (.x .x0)]

/-- GET_INT_STATUS (R180). -/
def execGetIntStatus (s : State) : Host.Outcome State Fault Refusal :=
  commandStep s.checkBound getIntStatusProg s

/-- GET_INT_MASK's micro-program (R181). -/
def getIntMaskProg : List MicroOp := [.ld .x0 (.reg .intmsk), .ret (.x .x0)]

/-- GET_INT_MASK (R181). -/
def execGetIntMask (s : State) : Host.Outcome State Fault Refusal :=
  commandStep s.checkBound getIntMaskProg s

/-- SET_INT_MASK's micro-program (R182): a full-word write, no read first. -/
def setIntMaskProg : List MicroOp := [.st (.reg .intmsk) .data]

/-- SET_INT_MASK (R182). -/
def execSetIntMask (s : State) : Host.Outcome State Fault Refusal :=
  commandStep s.checkBound setIntMaskProg s

/-- SET_AXI_MODE's preconditions (R183). -/
def setAxiModeCheck (bus : Nat) (s : State) : Option FaultCode :=
  firstFault [s.checkBound, s.checkBus bus]

/-- SET_AXI_MODE's micro-program (R183). -/
def setAxiModeProg (bus : Nat) (offline : Bool) : List MicroOp :=
  maskedWrite (.reg .axisw) (.const (axiBit bus)) (.const (if offline then axiBit bus else 0))

/-- SET_AXI_MODE (R183). -/
def execSetAxiMode (bus : Nat) (offline : Bool) (s : State) : Host.Outcome State Fault Refusal :=
  commandStep (setAxiModeCheck bus s) (setAxiModeProg bus offline) s

end Sys2Proof.Machine
end

