-- ==== Sys2Proof/Machine/RegisterAccess.lean ====
section
/-! DEFINITION. The RegisterAccess family (spec/40_register_access.md R105 to R107): BIND, RAW_READ,
RAW_WRITE_MASKED. -/

namespace Sys2Proof.Machine

/-- BIND's preconditions (R105). -/
def bindCheck (s : State) : Option FaultCode :=
  firstFault [s.checkUnbound, checkAligned (s.agent s.turn).addr,
    s.checkBaseFits (s.agent s.turn).addr]

/-- BIND's micro-program (R105). -/
def bindProg : List MicroOp := [.bindop]

/-- BIND (R105). -/
def execBind (s : State) : Host.Outcome State Fault Refusal := commandStep (bindCheck s) bindProg s

/-- The preconditions of the raw passthrough commands (R106, R107). -/
def rawCheck (s : State) : Option FaultCode :=
  firstFault [s.checkBound, checkAligned (s.agent s.turn).addr, s.checkOffset (s.agent s.turn).addr]

/-- RAW_READ's micro-program (R106). -/
def rawReadProg : List MicroOp := [.ld .x0 .raw, .ret (.x .x0)]

/-- RAW_READ (R106). -/
def execRawRead (s : State) : Host.Outcome State Fault Refusal :=
  commandStep (rawCheck s) rawReadProg s

/-- RAW_WRITE_MASKED's micro-program (R107). -/
def rawWriteMaskedProg : List MicroOp := maskedWrite .raw .mask .data

/-- RAW_WRITE_MASKED (R107). -/
def execRawWriteMasked (s : State) : Host.Outcome State Fault Refusal :=
  commandStep (rawCheck s) rawWriteMaskedProg s

end Sys2Proof.Machine
end

