-- ==== Sys2Proof/Machine/Reset.lean ====
section
/-! DEFINITION. The reset commands (spec/42_reset.md R133, R134) and the macros over the logical reset
value (spec/43_sequencer.md section 1). -/

namespace Sys2Proof.Machine

/-- The two reads of the logical reset value: word A first, then word B (R133). -/
def readRst : List MicroOp := [.ld .x0 (.reg .rstclk), .ld .x1 (.reg .blken)]

/-- `rst_decode(x[0], x[1])`. -/
def rstRead : Expr := .rstDecode (.x .x0) (.x .x1)

/-- SETRST(e) (R134): a masked write of word A, then of word B. -/
def setRst (e : Expr) : List MicroOp :=
  maskedWrite (.reg .rstclk) (.const rstMaskA) e ++
    maskedWrite (.reg .blken) (.const rstMaskB) (.shr e rstShiftB)

/-- GET_RESET's micro-program (R133). -/
def getResetProg : List MicroOp := readRst ++ [.ret rstRead]

/-- GET_RESET (R133). -/
def execGetReset (s : State) : Host.Outcome State Fault Refusal :=
  commandStep s.checkBound getResetProg s

/-- SET_RESET's micro-program (R134). -/
def setResetProg : List MicroOp := setRst .data

/-- SET_RESET (R134). -/
def execSetReset (s : State) : Host.Outcome State Fault Refusal :=
  commandStep s.checkBound setResetProg s

end Sys2Proof.Machine
end

