-- ==== Sys2Proof/Machine/Sequencer.lean ====
section
/-! DEFINITION. The guarded commands of the sequencer (spec/43_sequencer.md R150, R155 to R163) and the
sequencer as an FSM (R165). -/

namespace Sys2Proof.Machine

/-- TOGGLE_RESET's micro-program (R150): 15 micro-ops. The reset state is read once; the second value is
computed from x[2], not read again. -/
def toggleResetProg : List MicroOp :=
  [.acq] ++ readRst ++ [.set .x2 (.or rstRead .mask)] ++ setRst (.x .x2) ++ [.wait tSettleUs] ++
    [.set .x2 (.and (.x .x2) (.not .mask))] ++ setRst (.x .x2) ++ [.rel]

/-- TOGGLE_RESET (R150). -/
def execToggleReset (s : State) : Host.Outcome State Fault Refusal :=
  commandStep s.checkBound toggleResetProg s

/-- GETRST(2), then x[2] changed, then SETRST(x[2]): how every step of BRINGUP changes the named resets
(R156, R158 to R160). -/
def changeRst (e : Expr) : List MicroOp :=
  readRst ++ [.set .x2 rstRead, .set .x2 e] ++ setRst (.x .x2)

/-- SETCLK of a constant (R157 to R161). -/
def setClkConst (c : Config) (v : BitVec 4) : List MicroOp := setClk c (.const (v.setWidth 32))

/-- Step 1 (R156): assert the four named resets. -/
def bringupStep1 (c : Config) : List MicroOp := changeRst (.or (.x .x2) (.const (rst4 c)))

/-- Step 2 (R157): all clocks on, then off. -/
def bringupStep2 (c : Config) : List MicroOp := setClkConst c 0xF ++ setClkConst c 0x0

/-- Steps 3 to 5 (R158 to R160): the clocks of one domain on, its resets released, all clocks off. -/
def bringupRelease (c : Config) (clocks : BitVec 4) (lines : Word) : List MicroOp :=
  setClkConst c clocks ++ changeRst (.and (.x .x2) (.not (.const lines))) ++ setClkConst c 0x0

/-- Step 6 (R161): all clocks on. -/
def bringupStep6 (c : Config) : List MicroOp := setClkConst c 0xF

/-- Step 7 (R162): clear bits 21 to 26 of the fixup register. -/
def bringupStep7 : List MicroOp := maskedWrite .fixup (.const extFixupMask) (.const 0)

/-- BRINGUP's micro-program (R155, R163): 54 micro-ops, the steps in their fixed order. -/
def bringupProg (c : Config) : List MicroOp :=
  [.acq] ++ bringupStep1 c ++ bringupStep2 c ++ bringupRelease c 0x2 (rstmAxi c) ++
    bringupRelease c 0x1 (rstmIsp c) ++ bringupRelease c 0xC (rstmCsi0 c ||| rstmCsi1 c) ++
    bringupStep6 c ++ bringupStep7 ++ [.rel]

/-- BRINGUP's preconditions (R155). -/
def bringupCheck (s : State) : Option FaultCode := firstFault [s.checkBound, s.checkFixup]

/-- BRINGUP (R155). -/
def execBringup (s : State) : Host.Outcome State Fault Refusal :=
  commandStep (bringupCheck s) (bringupProg s.cfg) s

/-! ## The sequencer as an FSM -/

/-- The states of R165. -/
inductive SeqState where
  | idle
  | tAcq | tRead | tAssert | tWait | tDeassert | tRel
  | bAcq | b1AssertAll | b2ClkPulse | b3Axi | b4IspTop | b5CsiMac | b6ClkAll | b7Fixup | bRel
deriving DecidableEq, Repr

/-- The state codes (R165). -/
def SeqState.code : SeqState → Nat
  | .idle => 0x00
  | .tAcq => 0x10
  | .tRead => 0x11
  | .tAssert => 0x12
  | .tWait => 0x13
  | .tDeassert => 0x14
  | .tRel => 0x15
  | .bAcq => 0x20
  | .b1AssertAll => 0x21
  | .b2ClkPulse => 0x22
  | .b3Axi => 0x23
  | .b4IspTop => 0x24
  | .b5CsiMac => 0x25
  | .b6ClkAll => 0x26
  | .b7Fixup => 0x27
  | .bRel => 0x28

/-- The `upc` ranges of TOGGLE_RESET (R165). -/
def toggleSeqState (upc : Nat) : SeqState :=
  if upc < 1 then .tAcq
  else if upc < 4 then .tRead
  else if upc < 8 then .tAssert
  else if upc < 9 then .tWait
  else if upc < 14 then .tDeassert
  else .tRel

/-- The `upc` ranges of BRINGUP (R165). -/
def bringupSeqState (upc : Nat) : SeqState :=
  if upc < 1 then .bAcq
  else if upc < 9 then .b1AssertAll
  else if upc < 13 then .b2ClkPulse
  else if upc < 25 then .b3Axi
  else if upc < 37 then .b4IspTop
  else if upc < 49 then .b5CsiMac
  else if upc < 51 then .b6ClkAll
  else if upc < 53 then .b7Fixup
  else .bRel

/-- The sequencer state of an agent (R165): IDLE unless it runs one of the two guarded commands. -/
def Agent.seqState (g : Agent) : SeqState :=
  if g.idle then .idle
  else match decode g.cmd with
    | .op .toggleReset => toggleSeqState g.upc
    | .op .bringup => bringupSeqState g.upc
    | _ => .idle

end Sys2Proof.Machine
end

