-- ==== Sys2Proof/Machine/Dispatch.lean ====
section
/-! DEFINITION. One step of an instruction by the agent whose turn it is: one arm per row of the opcode
map (spec/30_encoding.md R88). -/

namespace Sys2Proof.Machine

def exec (i : Instr) (s : State) : Host.Outcome State Fault Refusal :=
  match i with
  | .bind => Sys2Proof.Machine.execBind s
  | .getIspClock => Sys2Proof.Machine.execGetIspClock s
  | .setIspClock => Sys2Proof.Machine.execSetIspClock s
  | .getLpClock => Sys2Proof.Machine.execGetLpClock s
  | .setLpClock => Sys2Proof.Machine.execSetLpClock s
  | .getReset => Sys2Proof.Machine.execGetReset s
  | .setReset => Sys2Proof.Machine.execSetReset s
  | .toggleReset => Sys2Proof.Machine.execToggleReset s
  | .getIntStatus => Sys2Proof.Machine.execGetIntStatus s
  | .getIntMask => Sys2Proof.Machine.execGetIntMask s
  | .setIntMask => Sys2Proof.Machine.execSetIntMask s
  | .bringup => Sys2Proof.Machine.execBringup s
  | .setAxiMode bus offline => Sys2Proof.Machine.execSetAxiMode bus offline s
  | .rawRead => Sys2Proof.Machine.execRawRead s
  | .rawWriteMasked => Sys2Proof.Machine.execRawWriteMasked s

end Sys2Proof.Machine
end

