-- ==== Sys2Proof/Machine/Fetch.lean ====
section
/-! DEFINITION. What a step does before the instruction runs: which agent moves (spec/20_memory.md R71),
the sample of the input int_src_i (spec/10_state.md R50), the latches loaded from the program at an issue
step (spec/40_register_access.md R103 part 1); and how a run ends (spec/70_reset_and_hazards.md R247). -/

namespace Sys2Proof.Machine

/-- The agents of the machine that have an enabled step. -/
def State.enabledAgents (s : State) : List AgentId := (s.agents.map (·.1)).filter s.enabled

/-- Who moves (R71 (b)): the first agent of `turns` that has an enabled step, with the rest of the list;
where the list names none, the one enabled agent there is, or a free choice among several. None when no
agent has an enabled step. Log entry 5. -/
def State.mover (s : State) : Option (AgentId × List AgentId) :=
  match s.turns.dropWhile (fun a => !s.enabled a) with
  | a :: rest => some (a, rest)
  | [] =>
    match s.enabledAgents with
    | [] => none
    | [a] => some (a, [])
    | a :: b :: l => some ((a :: b :: l).getD (Config.freeTurn s.tick % (l.length + 2)) a, [])

/-- The sample of int_src_i this step sees: the next of `intIn`, else free (R50, R66). Log entry 6. -/
def State.sampleInput (s : State) : State :=
  match s.intIn with
  | [] => { s with intSrc := Config.freeIntSrc s.tick }
  | v :: rest => { s with intSrc := v, intIn := rest }

/-- Part 1 of the issue step (R103): CMD, DATA, MASK and ADDR from `prog[cpc]`. -/
def Agent.loadLatches (g : Agent) : Agent :=
  match g.prog[g.cpc]? with
  | none => g
  | some c => { g with cmd := c.cmd, data := c.data, mask := c.mask, addr := c.addr }

/-- The state in which the moving agent's instruction runs: its turn, the input sampled, and for an idle
agent the latches loaded. -/
def State.begin (s : State) (a : AgentId) (rest : List AgentId) : State :=
  let t := { s.sampleInput with turn := a, turns := rest, tick := s.tick + 1 }
  if (s.agent a).idle then t.modAgent a Agent.loadLatches else t

/-- A state is final when every agent has finished, none has a fault or refusal, and the guard is free
(R247). -/
def State.final (s : State) : Bool :=
  s.agents.all (fun p => p.2.finished && !p.2.stopped) && decide (s.guard = .free)

/-- Why no agent has an enabled step (R247). -/
def State.haltReason (s : State) : Fault :=
  if s.final then .runFinal
  else if s.agents.any (fun p => p.2.stopped) then .runFailed
  else .runStuck

end Sys2Proof.Machine
end

