-- ==== Sys2Proof/Machine/Step.lean ====
section
/-! DEFINITION. One step of the machine: one agent's issue step or micro-op (spec/40_register_access.md
R100, R103; spec/20_memory.md R71). -/

namespace Sys2Proof.Machine

/-- A configuration that breaks R7 is refused before any agent steps (60_exceptions.md R201). Then the
moving agent's command word is decoded; a word that spells no operation is refused (R103 part 2), else
the instruction runs. -/
def step (s : State) : Host.Outcome State Fault Refusal :=
  if configOk s.cfg then
    if agentSetOk s.cfg then
      match s.mover with
      | none => .fault s.haltReason
      | some (a, rest) =>
        match decode ((s.begin a rest).agent a).cmd with
        | .op i => exec i (s.begin a rest)
        | .refused r => .next ((s.begin a rest).refuse a r)
    else .refused .badAgents
  else .refused .badConfig

/-- An agent that can issue its next command: idle, not stopped, not excluded. -/
def State.canIssue (s : State) (p : AgentId × Agent) : Bool :=
  p.2.idle && !p.2.stopped && !s.excluded p.1

/-- The agent's program with the command at its command index. -/
def Agent.withCommand (g : Agent) (c : Command) : Agent :=
  { g with prog := g.prog.take g.cpc ++
      (List.replicate (g.cpc - g.prog.length) c ++ c :: g.prog.drop (g.cpc + 1)) }

/-- The state with one command placed where the next step fetches: at `prog[cpc]` of the first agent that
can issue, which is given the next turn. A state in which no agent can issue has no such place and stays
as it is. Log entry 4. -/
def State.withFetchWord (s : State) (nbits w : Nat) : State :=
  match s.agents.find? s.canIssue with
  | none => s
  | some (a, _) =>
    { s with turns := a :: s.turns }.modAgent a fun g => g.withCommand (commandOfBits (w % 2 ^ nbits))

/-- `n` steps in a row of one command by the agent whose turn it is, no other agent between them. -/
def execTimes (i : Instr) : Nat → State → Host.Outcome State Fault Refusal
  | 0, s => .next s
  | n + 1, s =>
    match exec i s with
    | .next t => execTimes i n t
    | .fault r => .fault r
    | .refused r => .refused r

end Sys2Proof.Machine
end

