-- ==== Sys2Proof/Machine/Asm.lean ====
section
/-! DEFINITION. The assembler syntax (spec/30_encoding.md R93): one line is one command, with numbers in
decimal or 0x hex, and operand latches a line does not name are 0. Blanks and commas separate; a number
that does not fit its latch, or anything else outside the syntax, is no line (log entry 17). -/

namespace Sys2Proof.Machine

/-- Cutting a line at blanks and commas; `cur` holds the current piece, last character first. -/
def tokens (cur : List Char) : List Char → List (List Char)
  | [] => if cur.isEmpty then [] else [cur.reverse]
  | c :: cs =>
    if c = ' ' ∨ c = ',' then
      if cur.isEmpty then tokens [] cs else cur.reverse :: tokens [] cs
    else tokens (c :: cur) cs

/-- The value of a decimal digit. -/
def decDigit (c : Char) : Option Nat :=
  if '0'.toNat ≤ c.toNat ∧ c.toNat ≤ '9'.toNat then some (c.toNat - '0'.toNat) else none

/-- The value of a hex digit. -/
def hexDigit (c : Char) : Option Nat :=
  if 'a'.toNat ≤ c.toNat ∧ c.toNat ≤ 'f'.toNat then some (c.toNat - 'a'.toNat + 10)
  else if 'A'.toNat ≤ c.toNat ∧ c.toNat ≤ 'F'.toNat then some (c.toNat - 'A'.toNat + 10)
  else decDigit c

/-- The value of a run of digits in a base, most significant first. -/
def digits (digit : Char → Option Nat) (base : Nat) (acc : Nat) : List Char → Option Nat
  | [] => some acc
  | c :: cs =>
    match digit c with
    | some d => digits digit base (acc * base + d) cs
    | none => none

/-- A number: `0x` and hex digits, or decimal digits. -/
def number : List Char → Option Nat
  | '0' :: 'x' :: c :: cs => digits hexDigit 16 0 (c :: cs)
  | c :: cs => digits decDigit 10 0 (c :: cs)
  | [] => none

/-- A number that fits in `n` bits. -/
def field (n : Nat) (t : List Char) : Option (BitVec n) :=
  match number t with
  | some v => if v < 2 ^ n then some (BitVec.ofNat n v) else none
  | none => none

/-- A command that names no operand latch. -/
def plain (i : Instr) : Command := ⟨encode i, 0, 0, 0⟩

/-- The attribute operand of `set_axi_mode`. -/
def axiMode (t : List Char) : Option Bool :=
  if t = "offline".toList then some true
  else if t = "realtime".toList then some false
  else none

/-- A line with no operand (R93). -/
def assemble0 (op : List Char) : Option Command :=
  if op = "get_isp_clock".toList then some (plain .getIspClock)
  else if op = "get_low_power_clock".toList then some (plain .getLpClock)
  else if op = "get_reset".toList then some (plain .getReset)
  else if op = "get_status".toList then some (plain .getIntStatus)
  else if op = "get_mask".toList then some (plain .getIntMask)
  else if op = "bringup".toList then some (plain .bringup)
  else none

/-- A line with one operand (R93). -/
def assemble1 (op t : List Char) : Option Command :=
  if op = "bind".toList then
    (field 64 t).map fun v => { plain .bind with addr := v }
  else if op = "set_isp_clock".toList then
    (field 32 t).map fun v => { plain .setIspClock with data := v }
  else if op = "set_low_power_clock".toList then
    (field 32 t).map fun v => { plain .setLpClock with data := v }
  else if op = "set_reset".toList then
    (field 32 t).map fun v => { plain .setReset with data := v }
  else if op = "toggle_reset".toList then
    (field 32 t).map fun v => { plain .toggleReset with mask := v }
  else if op = "set_mask".toList then
    (field 32 t).map fun v => { plain .setIntMask with data := v }
  else if op = "raw_read".toList then
    (field 64 t).map fun v => { plain .rawRead with addr := v }
  else none

/-- A line of pieces (R93). -/
def assembleTokens : List (List Char) → Option Command
  | [op] => assemble0 op
  | [op, t] => assemble1 op t
  | [op, t, u] =>
    if op = "set_axi_mode".toList then
      match field 5 t, axiMode u with
      | some bus, some off => some (plain (.setAxiMode bus.toNat off))
      | _, _ => none
    else none
  | [op, t, u, v] =>
    if op = "raw_write_masked".toList then
      match field 64 t, field 32 u, field 32 v with
      | some off, some m, some d => some ⟨encode .rawWriteMasked, d, m, off⟩
      | _, _, _ => none
    else none
  | _ => none

/-- One line of assembler text (R93). -/
def assemble (line : String) : Option Command := assembleTokens (tokens [] line.toList)

end Sys2Proof.Machine
end

