-- ==== Sys2Proof/Machine/Outputs.lean ====
section
/-! DEFINITION. The level outputs of the block (spec/10_state.md R50; spec/41_clock.md R120, R128;
spec/42_reset.md R131; spec/44_interrupt_axi.md R184, R185): functions of the state, with no latency. -/

namespace Sys2Proof.Machine

/-- `rst_o[15:0]`: 1 holds that domain in reset (R130, R131). -/
def State.rstO (s : State) : BitVec 16 := s.resetState.extractLsb' 0 16

/-- `clk_en_o[3:0]`: 1 lets that clock run (R120); the tree is flat, no bit depends on another (R126). -/
def State.clkEnO (s : State) : BitVec 4 := s.clockState

/-- `axi_offline_o[31:0]` (R185). -/
def State.axiOfflineO (s : State) : Word := s.csr.axisw

/-- `lp_clk_cfg_o[31:0]` (R128). -/
def State.lpClkCfgO (s : State) : Word := s.csr.lpclk

/-- The sources that INTMSK lets through, under INT_MASK_POLARITY (R184, 60_exceptions.md R208). -/
def State.intEnables (s : State) : Word :=
  match s.cfg.intMaskPolarity with
  | .enableHigh => s.csr.intmsk
  | .maskHigh => ~~~s.csr.intmsk

/-- `irq_o`: some enabled source is pending (R184, 60_exceptions.md R208). -/
def State.irqO (s : State) : Bool := decide (s.intSrc &&& s.intEnables ≠ 0)

end Sys2Proof.Machine
end

