-- ==== Sys2Proof/Machine/Program.lean ====
section
/-! DEFINITION. The micro-program and the preconditions of each command as functions of the command, for
statements about all commands; the meanings themselves are in the family files. -/

namespace Sys2Proof.Machine

/-- The micro-program of a command (spec/40_register_access.md R100). -/
def program (c : Config) : Instr → List MicroOp
  | .bind => bindProg
  | .getIspClock => getIspClockProg
  | .setIspClock => setIspClockProg c
  | .getLpClock => getLpClockProg
  | .setLpClock => setLpClockProg
  | .getReset => getResetProg
  | .setReset => setResetProg
  | .toggleReset => toggleResetProg
  | .getIntStatus => getIntStatusProg
  | .getIntMask => getIntMaskProg
  | .setIntMask => setIntMaskProg
  | .bringup => bringupProg c
  | .setAxiMode bus offline => setAxiModeProg bus offline
  | .rawRead => rawReadProg
  | .rawWriteMasked => rawWriteMaskedProg

/-- The first failing precondition of a command for the agent whose turn it is (60_exceptions.md R202,
R204). -/
def precondition (s : State) : Instr → Option FaultCode
  | .bind => bindCheck s
  | .getIspClock => s.checkBound
  | .setIspClock => s.checkBound
  | .getLpClock => s.checkBound
  | .setLpClock => s.checkBound
  | .getReset => s.checkBound
  | .setReset => s.checkBound
  | .toggleReset => s.checkBound
  | .getIntStatus => s.checkBound
  | .getIntMask => s.checkBound
  | .setIntMask => s.checkBound
  | .bringup => bringupCheck s
  | .setAxiMode bus _ => setAxiModeCheck bus s
  | .rawRead => rawCheck s
  | .rawWriteMasked => rawCheck s

/-- The two commands that take the guard (43_sequencer.md R140). -/
def guarded : Instr → Bool
  | .bind => false
  | .getIspClock => false
  | .setIspClock => false
  | .getLpClock => false
  | .setLpClock => false
  | .getReset => false
  | .setReset => false
  | .toggleReset => true
  | .getIntStatus => false
  | .getIntMask => false
  | .setIntMask => false
  | .bringup => true
  | .setAxiMode _ _ => false
  | .rawRead => false
  | .rawWriteMasked => false

/-- The getters: the commands whose micro-program ends in RET (40_register_access.md R104). -/
def getter : Instr → Bool
  | .bind => false
  | .getIspClock => true
  | .setIspClock => false
  | .getLpClock => true
  | .setLpClock => false
  | .getReset => true
  | .setReset => false
  | .toggleReset => false
  | .getIntStatus => true
  | .getIntMask => true
  | .setIntMask => false
  | .bringup => false
  | .setAxiMode _ _ => false
  | .rawRead => true
  | .rawWriteMasked => false

end Sys2Proof.Machine
end

