-- ==== Sys2Proof/Safety.lean ====
section
/-! DEFINITION. The terms the statements use: power-on states (spec/70_reset_and_hazards.md R230, R231),
the shape of the window binding, what it is to run a command, the invariant every step keeps, and the
laws of the history (spec/43_sequencer.md R147). -/

namespace Sys2Proof.Machine

/-! ## Power-on -/

/-- An agent's record at power-on (R230): the latches, the temporaries and RDATA are unspecified, so any
values will do. -/
def Agent.PowerOn (g : Agent) : Prop :=
  g.cpc = 0 ∧ g.uprog = [] ∧ g.fault = none ∧ g.refused = none

/-- A power-on state (R230, R231): the registers, the fixup register and BASE are draws, so any values
will do; every statement about power-on holds for every draw. -/
def State.PowerOn (s : State) : Prop :=
  s.bound = false ∧ s.guard = .free ∧ s.history = [] ∧ s.agents.map (·.1) = s.cfg.agents ∧
    ∀ p ∈ s.agents, p.2.PowerOn

/-! ## The binding, and commands in progress -/

/-- The binding a successful BIND leaves (R105): BASE is a multiple of 4 and the window does not wrap. -/
def State.BaseOk (s : State) : Prop :=
  s.base.toNat % 4 = 0 ∧ s.base.toNat + s.cfg.windowSize ≤ 2 ^ 64

/-- The window is bound, under a configuration that keeps R7. Every reachable bound state is one
(`State.Inv`). -/
def State.WindowOk (s : State) : Prop := configOk s.cfg = true ∧ s.bound = true ∧ s.BaseOk

/-- The agent whose turn it is may take a step and has no running command: it can issue (R103). -/
def State.Ready (s : State) : Prop := s.enabled s.turn = true ∧ (s.agent s.turn).idle = true

/-- The agent whose turn it is either has no running command or runs this one. -/
def State.OnCommand (s : State) (i : Instr) : Prop :=
  (s.agent s.turn).uprog = [] ∨ (s.agent s.turn).uprog = program s.cfg i

/-- The record of an agent that has just issued a command whose preconditions hold (R103 part 4). -/
def Agent.issued (g : Agent) (prog : List MicroOp) : Agent := { g with uprog := prog, upc := 0 }

/-- The record of an agent whose command of `n` micro-ops is complete (R103). -/
def Agent.completed (g : Agent) (n : Nat) : Agent :=
  { g with uprog := [], upc := n, cpc := g.cpc + 1 }

/-- The state after the issue step of a command whose preconditions hold (R103 part 4). -/
def State.issued (s : State) (i : Instr) : State :=
  s.modAgent s.turn fun g => g.issued (program s.cfg i)

/-- The micro-op the agent whose turn it is runs next, none when it has no running command. -/
def State.currentOp (s : State) : Option MicroOp :=
  (s.agent s.turn).uprog[(s.agent s.turn).upc]?

/-- Several events appended to the history. -/
def State.emit (s : State) (es : List Event) : State := { s with history := s.history ++ es }

/-- The registers a command stores into (10_state.md R38 to R44); RAW_WRITE_MASKED stores where its
operand says and is not covered here. -/
def writtenRegs : Instr → List Reg
  | .bind => []
  | .getIspClock => []
  | .setIspClock => [.rstclk]
  | .getLpClock => []
  | .setLpClock => [.lpclk]
  | .getReset => []
  | .setReset => [.rstclk, .blken]
  | .toggleReset => [.rstclk, .blken]
  | .getIntStatus => []
  | .getIntMask => []
  | .setIntMask => [.intmsk]
  | .bringup => [.rstclk, .blken]
  | .setAxiMode _ _ => [.axisw]
  | .rawRead => []
  | .rawWriteMasked => []

/-! ## The invariant -/

/-- What the issue checks of a running command left true (R105 to R107, R155, R202). -/
def Admitted (s : State) (g : Agent) : Instr → Prop
  | .bind => g.addr.toNat % 4 = 0 ∧ g.addr.toNat + s.cfg.windowSize ≤ 2 ^ 64
  | .rawRead => s.bound = true ∧ g.addr.toNat % 4 = 0 ∧ g.addr.toNat < s.cfg.windowSize
  | .rawWriteMasked => s.bound = true ∧ g.addr.toNat % 4 = 0 ∧ g.addr.toNat < s.cfg.windowSize
  | .bringup => s.bound = true ∧ s.cfg.extFixupAddr.isSome = true
  | .getIspClock => s.bound = true
  | .setIspClock => s.bound = true
  | .getLpClock => s.bound = true
  | .setLpClock => s.bound = true
  | .getReset => s.bound = true
  | .setReset => s.bound = true
  | .toggleReset => s.bound = true
  | .getIntStatus => s.bound = true
  | .getIntMask => s.bound = true
  | .setIntMask => s.bound = true
  | .setAxiMode _ _ => s.bound = true

/-- An agent runs a command: its CMD latch decodes to it, its micro-program is the command's, the
counter lies inside it, and the agent is not stopped (R33, R103). -/
structure Running (s : State) (a : AgentId) (g : Agent) (i : Instr) : Prop where
  word : decode g.cmd = .op i
  prog : g.uprog = program s.cfg i
  inside : g.upc < g.uprog.length
  live : g.stopped = false
  left : g.cpc < g.prog.length
  admitted : Admitted s g i
  /-- past its ACQ, a guarded command's agent holds the guard (R140) -/
  holds : guarded i = true → 0 < g.upc → s.guard = .held a

/-- The invariant of the machine. -/
structure State.Inv (s : State) : Prop where
  /-- the agents are those of the configuration (R31) -/
  keys : s.agents.map (·.1) = s.cfg.agents
  /-- a bound window has a good base (R105) -/
  binding : s.bound = true → s.BaseOk
  /-- no agent's command index is past its list (R33) -/
  index : ∀ a g, lookupAgent s.agents a = some g → g.cpc ≤ g.prog.length
  /-- an agent with a micro-program runs a command (R103) -/
  running : ∀ a g, lookupAgent s.agents a = some g → g.uprog ≠ [] → ∃ i, Running s a g i
  /-- the guard is held only by an agent inside a guarded command (R140) -/
  holder : ∀ a, s.guard = .held a →
    ∃ g i, lookupAgent s.agents a = some g ∧ Running s a g i ∧ guarded i = true ∧ 0 < g.upc

/-! ## The history -/

/-- The agent of an event. -/
def Event.agent : Event → AgentId
  | .bind a _ => a
  | .rd a _ _ => a
  | .wr a _ _ => a
  | .acq a => a
  | .rel a => a
  | .wait a _ => a
  | .ret a _ => a
  | .fault a _ => a
  | .refuse a _ => a

/-- The guard after one event, none where the event breaks the guard's law (43_sequencer.md R141 to
R143): while it is held, no event of another agent of the holder's core, no other ACQ, and no REL but
the holder's. -/
def Guard.after (g : Guard) (e : Event) : Option Guard :=
  match g, e with
  | .free, .acq a => some (.held a)
  | .free, .rel _ => none
  | .free, _ => some .free
  | .held _, .acq _ => none
  | .held h, .rel a => if a = h then some .free else none
  | .held h, e => if e.agent ≠ h ∧ e.agent.core = h.core then none else some (.held h)

/-- The guard after a history, none where the history breaks the guard's law. -/
def Guard.replay (g : Guard) : List Event → Option Guard
  | [] => some g
  | e :: l => (g.after e).bind fun g' => g'.replay l

/-- R147: between an ACQ event of an agent and its next REL event there is no ACQ event of another agent
and no event of another agent of its core. -/
def Excludes (h : List Event) : Prop :=
  ∀ pre mid post a, h = pre ++ Event.acq a :: (mid ++ post) → Event.rel a ∉ mid →
    ∀ e ∈ mid, e.agent ≠ a → (∀ b, e ≠ .acq b) ∧ e.agent.core ≠ a.core

/-- A write or a wait of an agent: the events of the toggle's trace law (43_sequencer.md R151). -/
def Event.writesOrWaits (a : AgentId) : Event → Bool
  | .bind _ _ => false
  | .rd _ _ _ => false
  | .wr b _ _ => decide (b = a)
  | .acq _ => false
  | .rel _ => false
  | .wait b _ => decide (b = a)
  | .ret _ _ => false
  | .fault _ _ => false
  | .refuse _ _ => false

/-- The value of a write to an address, none for every other event. -/
def Event.writeTo (ad : Addr) : Event → Option Word
  | .bind _ _ => none
  | .rd _ _ _ => none
  | .wr _ b v => if b = ad then some v else none
  | .acq _ => none
  | .rel _ => none
  | .wait _ _ => none
  | .ret _ _ => none
  | .fault _ _ => none
  | .refuse _ _ => none

/-- The event is no write of another agent to one of these addresses, and no BIND. -/
def Event.Undisturbing (a : AgentId) (words : List Addr) (e : Event) : Prop :=
  (∀ b ad v, e = .wr b ad v → b ≠ a → ad ∉ words) ∧ ∀ b base, e ≠ .bind b base

/-- A run of the machine from a state: some number of steps leads to the other state. -/
def Reaches (s t : State) : Prop :=
  ∃ n, Host.Core.run Sys2Proof.core n s = Host.Outcome.next t

end Sys2Proof.Machine
end

