-- ==== Sys2Proof/Certificates/Slice0/Obligations.lean ====
section
/-! DEFINITION. The statements for the provers. Rule numbers are those of spec/. -/

open Sys2Proof Sys2Proof.Machine

/-! ## Encoding -/

/-- Words written out from the encoding table R87, R88, as the decoder reads them (sanity). -/
def Obligations.SpecWordsDecodeAsWritten : Prop :=
  decode 0b00000000000000000000000000000000#32 = .op .bind ∧
  decode 0b00000000000000000000000000000010#32 = .op .setIspClock ∧
  decode 0b00000000000000000000000000000101#32 = .op .getReset ∧
  decode 0b00000000000000000000000000000111#32 = .op .toggleReset ∧
  decode 0b00000000000000000000000000001011#32 = .op .bringup ∧
  decode 0b00000000000000000000001000111100#32 = .op (.setAxiMode 3 true) ∧
  decode 0b00000000000000000000000111111100#32 = .op (.setAxiMode 31 false) ∧
  decode 0b00000000000000000000000000001110#32 = .op .rawWriteMasked ∧
  decode 0b00000000000000000000010000011111#32 = .refused .rsvOpcode ∧
  decode 0b00000000000000000000000000010101#32 = .refused .rsvField

/-- R87, R88: decoding the word of a well-formed instruction gives it back. -/
def Obligations.DecodeOfEncodeIsTheInstruction : Prop :=
  ∀ i : Instr, i.wf = true → decode (encode i) = .op i

/-- R88, R91: a word that decodes is the word of the instruction it decodes to, so each operation has one
word and no bit of a word is dropped. -/
def Obligations.EncodeOfDecodeIsTheWord : Prop :=
  ∀ (w : Word) (i : Instr), decode w = .op i → i.wf = true ∧ encode i = w

/-- R90, R91: the issue step of a word with OPC = 0xF is refused RSV_OPCODE; of a word with a nonzero
reserved field, or a nonzero BUS or OFF outside SET_AXI_MODE, RSV_FIELD; every other word decodes. The
refusal is R201's: the event, the sticky mark, and the agent stops. -/
def Obligations.ReservedWordsAreRefusedAtIssue : Prop :=
  ∀ (s : State) (a : AgentId) (rest : List AgentId) (c : Command),
    configOk s.cfg = true → agentSetOk s.cfg = true → s.mover = some (a, rest) →
    (s.agent a).uprog = [] → (s.agent a).prog[(s.agent a).cpc]? = some c →
    (c.cmd.extractLsb' 0 4 = 0xF →
      step s = .next ((s.begin a rest).refuse a .rsvOpcode)) ∧
    (c.cmd.extractLsb' 0 4 ≠ 0xF →
      (c.cmd.extractLsb' 10 22 ≠ 0 ∨ (c.cmd.extractLsb' 4 6 ≠ 0 ∧ c.cmd.extractLsb' 0 4 ≠ 0xC)) →
      step s = .next ((s.begin a rest).refuse a .rsvField)) ∧
    (c.cmd.extractLsb' 0 4 ≠ 0xF → c.cmd.extractLsb' 10 22 = 0 →
      (c.cmd.extractLsb' 4 6 = 0 ∨ c.cmd.extractLsb' 0 4 = 0xC) →
      ∃ i, decode c.cmd = .op i ∧ step s = exec i (s.begin a rest)) ∧
    (∀ r, (((s.begin a rest).refuse a r).agent a).refused = some r ∧
      (((s.begin a rest).refuse a r).agent a).cpc = (s.agent a).cpc ∧
      ((s.begin a rest).refuse a r).history = s.history ++ [.refuse a r] ∧
      ((s.begin a rest).refuse a r).csr = s.csr ∧ ((s.begin a rest).refuse a r).ext = s.ext ∧
      ((s.begin a rest).refuse a r).guard = s.guard ∧
      ((s.begin a rest).refuse a r).bound = s.bound ∧
      ((s.begin a rest).refuse a r).enabled a = false)

/-- R7, R201: a configuration that breaks any of the six constraints is refused as a whole. -/
def Obligations.BrokenConfigurationIsRefused : Prop :=
  ∀ s : State,
    (¬ (offsets s.cfg).Nodup ∨ (∃ o ∈ offsets s.cfg, o % 4 ≠ 0 ∨ s.cfg.windowSize ≤ o) ∨
      s.cfg.windowSize = 0 ∨ s.cfg.windowSize % 4 ≠ 0 ∨ 2 ^ 64 < s.cfg.windowSize ∨
      ¬ [s.cfg.rstAxiBit, s.cfg.rstIspTopBit, s.cfg.rstCsi0Bit, s.cfg.rstCsi1Bit].Nodup ∨
      (∃ b ∈ [s.cfg.rstAxiBit, s.cfg.rstIspTopBit, s.cfg.rstCsi0Bit, s.cfg.rstCsi1Bit], 16 ≤ b) ∨
      ¬ [s.cfg.clkIspTopBit, s.cfg.clkAxiBit, s.cfg.clkCsi0Bit, s.cfg.clkCsi1Bit].Nodup ∨
      (∃ b ∈ [s.cfg.clkIspTopBit, s.cfg.clkAxiBit, s.cfg.clkCsi0Bit, s.cfg.clkCsi1Bit],
        b < 16 ∨ 32 ≤ b) ∨
      s.cfg.nAxiBus = 0 ∨ 32 < s.cfg.nAxiBus ∨
      (∃ e, s.cfg.extFixupAddr = some e ∧ (e % 4 ≠ 0 ∨ 2 ^ 64 ≤ e))) →
    step s = .refused .badConfig

/-- R8: the derived constants of the default profile. -/
def Obligations.DerivedConstantsOfTheDefaultProfile : Prop :=
  clkMask Config.defaultProfile = 0x000F0000 ∧ rst4 Config.defaultProfile = 0x0000000F ∧
    rstLogicalMask = 0x0000ffff ∧ configOk Config.defaultProfile = true

/-- R93: lines of assembler text and their command records (95_test_vectors.md section 3). -/
def Obligations.AssemblerLinesGiveTheirCommands : Prop :=
  assemble "bind 0x40000000" = some ⟨0x00000000, 0, 0, 0x40000000⟩ ∧
  assemble "set_axi_mode 3, offline" = some ⟨0x0000023C, 0, 0, 0⟩ ∧
  assemble "toggle_reset 0x3002" = some ⟨0x00000007, 0, 0x00003002, 0⟩ ∧
  assemble "raw_write_masked 0x14, 0xFF00, 0xAB00" = some ⟨0x0000000E, 0xAB00, 0xFF00, 0x14⟩

/-! ## The codec -/

/-- R81: the clock-enable layout and its three laws. -/
def Obligations.ClockCodecLaws : Prop :=
  ∀ (c : Config) (w : Word) (v : BitVec 4), clkBitsOk c = true →
    (clkDecode c w).getLsbD 0 = w.getLsbD c.clkIspTopBit ∧
    (clkDecode c w).getLsbD 1 = w.getLsbD c.clkAxiBit ∧
    (clkDecode c w).getLsbD 2 = w.getLsbD c.clkCsi0Bit ∧
    (clkDecode c w).getLsbD 3 = w.getLsbD c.clkCsi1Bit ∧
    clkEncode c v =
      ((v.extractLsb' 0 1).setWidth 32 <<< c.clkIspTopBit) |||
      ((v.extractLsb' 1 1).setWidth 32 <<< c.clkAxiBit) |||
      ((v.extractLsb' 2 1).setWidth 32 <<< c.clkCsi0Bit) |||
      ((v.extractLsb' 3 1).setWidth 32 <<< c.clkCsi1Bit) ∧
    clkDecode c (clkEncode c v) = v ∧
    clkEncode c (clkDecode c w) = w &&& clkMask c ∧
    clkEncode c v &&& ~~~clkMask c = 0 ∧
    clkEncode Config.defaultProfile v = v.setWidth 32 <<< 16

/-- R82, R83: the reset-control layout, its split, and the round trip through the two words. -/
def Obligations.ResetCodecLaws : Prop :=
  ∀ a b r : Word,
    rstDecode a b = (a &&& 0x0000cfff) ||| ((b &&& 0x00000003) <<< 12) ∧
    (rstDecode a b).extractLsb' 16 16 = 0 ∧
    (rstDecode a b).extractLsb' 12 2 = b.extractLsb' 0 2 ∧
    rstEncodeA r = r &&& 0x0000cfff ∧
    rstEncodeB r = (r >>> 12) &&& 0x00000003 ∧
    rstDecode ((a &&& ~~~0x0000cfff#32) ||| rstEncodeA r) ((b &&& ~~~0x3#32) ||| rstEncodeB r) =
      r &&& 0x0000ffff

/-! ## A step, the interleaving and the issue step -/

/-- R103: when the command word of the moving agent decodes to an instruction, the step is that
instruction's, in the state with its turn taken and (at an issue step) its latches loaded. -/
def Obligations.StepRunsTheDecodedCommand : Prop :=
  ∀ (s : State) (a : AgentId) (rest : List AgentId) (i : Instr),
    configOk s.cfg = true → agentSetOk s.cfg = true → s.mover = some (a, rest) →
    decode ((s.begin a rest).agent a).cmd = .op i →
    step s = exec i (s.begin a rest)

/-- R71 (b): any agent with an enabled step may take the next step, and only such an agent does. -/
def Obligations.AnyEnabledAgentMayMoveNext : Prop :=
  (∀ (s : State) (a : AgentId) (rest : List AgentId), s.enabled a = true →
    { s with turns := a :: rest }.mover = some (a, rest)) ∧
  (∀ (s : State) (a : AgentId) (rest : List AgentId), s.mover = some (a, rest) →
    s.enabled a = true) ∧
  (∀ (s : State) (a : AgentId), s.enabled a = true → ∃ b rest, s.mover = some (b, rest))

/-- R34, R103 part 1: the issue step loads the four latches from `prog[cpc]`; a running command's
latches stay; nothing else of the block changes before the instruction runs. The turn and the sample of
int_src_i are the model's, log entries 5 and 6. -/
def Obligations.IssueLoadsTheLatches : Prop :=
  ∀ (s : State) (a : AgentId) (rest : List AgentId), s.enabled a = true →
    (∀ c, (s.agent a).uprog = [] → (s.agent a).prog[(s.agent a).cpc]? = some c →
      (s.begin a rest).agent a =
        { s.agent a with cmd := c.cmd, data := c.data, mask := c.mask, addr := c.addr }) ∧
    ((s.agent a).uprog ≠ [] → (s.begin a rest).agent a = s.agent a) ∧
    (∀ b, b ≠ a → (s.begin a rest).agent b = s.agent b) ∧
    (s.begin a rest).turn = a ∧ (s.begin a rest).turns = rest ∧
    (s.begin a rest).tick = s.tick + 1 ∧ (s.begin a rest).cfg = s.cfg ∧
    (s.begin a rest).bound = s.bound ∧ (s.begin a rest).base = s.base ∧
    (s.begin a rest).csr = s.csr ∧ (s.begin a rest).ext = s.ext ∧
    (s.begin a rest).guard = s.guard ∧ (s.begin a rest).history = s.history ∧
    (s.begin a rest).drawCount = s.drawCount ∧
    (s.intIn = [] → (s.begin a rest).intSrc = Config.freeIntSrc s.tick) ∧
    (∀ v l, s.intIn = v :: l →
      (s.begin a rest).intSrc = v ∧ (s.begin a rest).intIn = l)

/-- R202 to R204: every command checks its preconditions in the order of R204 and reports only the first
that fails; when all hold, the micro-program is set up (R103 part 4). -/
def Obligations.PreconditionsAreCheckedInOrder : Prop :=
  ∀ s : State, s.Ready →
    (∀ i ∈ [Instr.getIspClock, .setIspClock, .getLpClock, .setLpClock, .getReset, .setReset,
        .toggleReset, .getIntStatus, .getIntMask, .setIntMask],
      exec i s = .next (if s.bound then s.issued i else s.raiseFault s.turn .unbound)) ∧
    exec .bind s = .next
      (if s.bound then s.raiseFault s.turn .rebind
       else if (s.agent s.turn).addr.toNat % 4 ≠ 0 then s.raiseFault s.turn .misaligned
       else if 2 ^ 64 < (s.agent s.turn).addr.toNat + s.cfg.windowSize then
         s.raiseFault s.turn .outOfWindow
       else s.issued .bind) ∧
    (∀ i ∈ [Instr.rawRead, .rawWriteMasked],
      exec i s = .next
        (if s.bound = false then s.raiseFault s.turn .unbound
         else if (s.agent s.turn).addr.toNat % 4 ≠ 0 then s.raiseFault s.turn .misaligned
         else if s.cfg.windowSize ≤ (s.agent s.turn).addr.toNat then
           s.raiseFault s.turn .outOfWindow
         else s.issued i)) ∧
    (∀ bus off, exec (.setAxiMode bus off) s = .next
      (if s.bound = false then s.raiseFault s.turn .unbound
       else if s.cfg.nAxiBus ≤ bus then s.raiseFault s.turn .badBus
       else s.issued (.setAxiMode bus off))) ∧
    (s.bound = false → exec .bringup s = .next (s.raiseFault s.turn .unbound)) ∧
    (s.bound = true → s.cfg.extFixupAddr = none →
      exec .bringup s = .next (s.raiseFault s.turn .fixupUnmapped)) ∧
    (∀ e, s.bound = true → s.cfg.extFixupAddr = some e →
      exec .bringup s = .next
        (if s.base.toNat ≤ e ∧ e < s.base.toNat + s.cfg.windowSize then
           s.raiseFault s.turn .fixupUnmapped
         else s.issued .bringup)) ∧
    FaultCode.unbound.code = 1 ∧ FaultCode.rebind.code = 2 ∧ FaultCode.misaligned.code = 3 ∧
    FaultCode.outOfWindow.code = 4 ∧ FaultCode.badBus.code = 5 ∧ FaultCode.fixupUnmapped.code = 6

/-- R103: every command completes its steps. The issue step of a command whose preconditions hold sets its
micro-program up; every later step its agent may take runs one micro-op and moves the counter on, and the
last one ends the command and moves the command index on. No other hypothesis is needed. -/
def Obligations.EveryStepOfACommandCompletes : Prop :=
  ∀ (i : Instr) (s : State),
    (s.Ready → precondition s i = none → exec i s = .next (s.issued i)) ∧
    (s.Inv → configOk s.cfg = true → s.enabled s.turn = true →
      Running s s.turn (s.agent s.turn) i →
      ∃ t, exec i s = .next t ∧ (t.agent s.turn).upc = (s.agent s.turn).upc + 1 ∧
        ((s.agent s.turn).upc + 1 < (program s.cfg i).length →
          (t.agent s.turn).uprog = program s.cfg i ∧ (t.agent s.turn).cpc = (s.agent s.turn).cpc) ∧
        ((s.agent s.turn).upc + 1 = (program s.cfg i).length →
          (t.agent s.turn).uprog = [] ∧ (t.agent s.turn).cpc = (s.agent s.turn).cpc + 1))

/-- R200: a fault at issue records the event, sets the sticky record and keeps `cpc` and the latches,
performs no access and changes no register, guard or binding, and stops the agent; no later step clears
the record, and the state is not final. -/
def Obligations.FaultAtIssueStopsTheAgent : Prop :=
  ∀ (i : Instr) (s : State) (code : FaultCode), s.Ready → precondition s i = some code →
    ∃ t, exec i s = .next t ∧ t.history = s.history ++ [.fault s.turn code] ∧
      t.agent s.turn = { s.agent s.turn with fault := some code } ∧
      (∀ b, b ≠ s.turn → t.agent b = s.agent b) ∧
      t.csr = s.csr ∧ t.ext = s.ext ∧ t.guard = s.guard ∧ t.bound = s.bound ∧ t.base = s.base ∧
      t.drawCount = s.drawCount ∧ t.enabled s.turn = false ∧ t.final = false ∧
      ∀ u, step t = .next u → (u.agent s.turn).fault = some code

/-- R37: the records are clear at power-on; a stopped agent takes no further step, and no step clears
its record. -/
def Obligations.StoppedAgentsStayStopped : Prop :=
  (∀ s : State, s.PowerOn → ∀ a, (s.agent a).fault = none ∧ (s.agent a).refused = none) ∧
  ∀ (s t : State) (a : AgentId), step s = .next t → (s.agent a).stopped = true →
    t.agent a = s.agent a ∧ ∀ h, t.history = s.history ++ h → ∀ e ∈ h, e.agent ≠ a

/-- R143: while the guard is held, no other agent of the holder's core takes any step; agents of other
cores, and every agent once the guard is free, are not kept from theirs by it. The clause that `exec` by
an agent without a step answers the state unchanged is the model's choice, log entry 9. -/
def Obligations.GuardExcludesTheHoldersCore : Prop :=
  ∀ s : State,
    (∀ g b, s.guard = .held g → b ≠ g → b.core = g.core →
      s.enabled b = false ∧ (∀ rest, s.mover ≠ some (b, rest)) ∧
      (∀ i, s.turn = b → exec i s = .next s)) ∧
    (∀ g b, s.guard = .held g → b.core ≠ g.core →
      s.enabled b = { s with guard := .free }.enabled b ∨
        ((s.agent b).uprog[(s.agent b).upc]? = some .acq ∧ s.enabled b = false)) ∧
    (s.guard = .free → ∀ b, s.excluded b = false)

/-- R141: ACQ takes a free guard and records it; with the guard held by anyone, the agent at its ACQ has
no step. R142: REL by the holder frees the guard and records it. That `exec` by the agent without a step
answers the state unchanged is the model's choice, log entry 9. -/
def Obligations.GuardIsTakenAndReleased : Prop :=
  ∀ (i : Instr) (s : State) (g : Agent), lookupAgent s.agents s.turn = some g →
    g.stopped = false → s.excluded s.turn = false → g.uprog ≠ [] →
    (g.uprog[g.upc]? = some .acq → s.guard = .free →
      exec i s = .next (({ s with guard := .held s.turn }.modAgent s.turn Agent.advance).record
        (.acq s.turn))) ∧
    (g.uprog[g.upc]? = some .acq → ∀ b, s.guard = .held b →
      s.enabled s.turn = false ∧ exec i s = .next s) ∧
    (g.uprog[g.upc]? = some .rel → s.guard = .held s.turn →
      exec i s = .next (({ s with guard := .free }.modAgent s.turn Agent.advance).record
        (.rel s.turn)))

/-- R145: WAIT records the wait and changes no other state than the agent's progress. -/
def Obligations.WaitRecordsAndChangesNothingElse : Prop :=
  ∀ (i : Instr) (s : State) (us : Nat), s.enabled s.turn = true → (s.agent s.turn).uprog ≠ [] →
    s.currentOp = some (.wait us) →
    exec i s = .next ((s.modAgent s.turn Agent.advance).record (.wait s.turn us))

/-! ## What each command does when no other agent steps in between -/

/-- R105: BIND from an unbound state binds the window at ADDR and does nothing else. -/
def Obligations.BindBindsTheWindow : Prop :=
  ∀ s : State, s.Ready → s.bound = false → (s.agent s.turn).addr.toNat % 4 = 0 →
    (s.agent s.turn).addr.toNat + s.cfg.windowSize ≤ 2 ^ 64 →
    execTimes .bind 2 s = .next
      (({ s with bound := true, base := (s.agent s.turn).addr }.modAgent s.turn fun g =>
        g.completed 1).emit [.bind s.turn (s.agent s.turn).addr])

/-- R122: GET_ISP_CLOCK returns the four clock enables of word A, one read. -/
def Obligations.GetIspClockReturnsTheClockState : Prop :=
  ∀ s : State, s.WindowOk → s.Ready →
    execTimes .getIspClock 3 s = .next
      ((s.modAgent s.turn fun g =>
        { g.completed 2 with
          tmp := g.tmp.set .x0 s.csr.rstclk, rdata := s.clockState.setWidth 32 }).emit
        [.rd s.turn (s.regAddr .rstclk) s.csr.rstclk, .ret s.turn (s.clockState.setWidth 32)])

/-- R123: SET_ISP_CLOCK writes DATA[3:0] into the four clock bits of word A and every other bit back as
read; the clock state then is DATA[3:0]. -/
def Obligations.SetIspClockWritesTheClockBits : Prop :=
  ∀ s : State, s.WindowOk → s.Ready → ∀ w : Word,
    w = (s.csr.rstclk &&& ~~~clkMask s.cfg) |||
      clkEncode s.cfg ((s.agent s.turn).data.extractLsb' 0 4) →
    execTimes .setIspClock 3 s = .next
      (({ s with csr := { s.csr with rstclk := w } }.modAgent s.turn fun g =>
        { g.completed 2 with tmp := g.tmp.set .x3 s.csr.rstclk }).emit
        [.rd s.turn (s.regAddr .rstclk) s.csr.rstclk, .wr s.turn (s.regAddr .rstclk) w]) ∧
    clkDecode s.cfg w = (s.agent s.turn).data.extractLsb' 0 4 ∧
    w &&& ~~~clkMask s.cfg = s.csr.rstclk &&& ~~~clkMask s.cfg

/-- R124, R125: GET_LP_CLOCK returns LPCLK; SET_LP_CLOCK stores DATA in it with no read first. -/
def Obligations.LowPowerClockIsReadAndWrittenWhole : Prop :=
  ∀ s : State, s.WindowOk → s.Ready →
    execTimes .getLpClock 3 s = .next
      ((s.modAgent s.turn fun g =>
        { g.completed 2 with tmp := g.tmp.set .x0 s.csr.lpclk, rdata := s.csr.lpclk }).emit
        [.rd s.turn (s.regAddr .lpclk) s.csr.lpclk, .ret s.turn s.csr.lpclk]) ∧
    execTimes .setLpClock 2 s = .next
      (({ s with csr := { s.csr with lpclk := (s.agent s.turn).data } }.modAgent s.turn fun g =>
        g.completed 1).emit [.wr s.turn (s.regAddr .lpclk) (s.agent s.turn).data])

/-- R133: GET_RESET reads word A, then word B, and returns the composite reset state. -/
def Obligations.GetResetReturnsTheResetState : Prop :=
  ∀ s : State, s.WindowOk → s.Ready →
    execTimes .getReset 4 s = .next
      ((s.modAgent s.turn fun g =>
        { g.completed 3 with
          tmp := (g.tmp.set .x0 s.csr.rstclk).set .x1 s.csr.blken, rdata := s.resetState }).emit
        [.rd s.turn (s.regAddr .rstclk) s.csr.rstclk, .rd s.turn (s.regAddr .blken) s.csr.blken,
          .ret s.turn s.resetState])

/-- R134, R135: SET_RESET writes the reset bits of word A, then of word B, every other bit back as read;
the reset state then is the low 16 bits of DATA. -/
def Obligations.SetResetWritesBothWords : Prop :=
  ∀ s : State, s.WindowOk → s.Ready → ∀ a b d : Word, d = (s.agent s.turn).data →
    a = (s.csr.rstclk &&& ~~~0x0000cfff#32) ||| (d &&& 0x0000cfff) →
    b = (s.csr.blken &&& ~~~0x00000003#32) ||| ((d >>> 12) &&& 0x3) →
    execTimes .setReset 5 s = .next
      (({ s with csr := { s.csr with rstclk := a, blken := b } }.modAgent s.turn fun g =>
        { g.completed 4 with tmp := g.tmp.set .x3 s.csr.blken }).emit
        [.rd s.turn (s.regAddr .rstclk) s.csr.rstclk, .wr s.turn (s.regAddr .rstclk) a,
          .rd s.turn (s.regAddr .blken) s.csr.blken, .wr s.turn (s.regAddr .blken) b]) ∧
    rstDecode a b = d &&& 0x0000ffff

/-- R150, R151: TOGGLE_RESET takes the guard, asserts the lines of MASK, waits the settle time,
de-asserts them and releases the guard; the whole trace, and the end state `r & ~m`. -/
def Obligations.ToggleResetRunsItsTrace : Prop :=
  ∀ s : State, s.WindowOk → s.Ready → s.guard = .free →
    ∀ a₀ b₀ m r a₁ b₁ a₂ b₂ : Word,
      a₀ = s.csr.rstclk → b₀ = s.csr.blken → m = (s.agent s.turn).mask → r = s.resetState →
      a₁ = (a₀ &&& ~~~0xcfff#32) ||| ((r ||| m) &&& 0xcfff) →
      b₁ = (b₀ &&& ~~~3#32) ||| (((r ||| m) >>> 12) &&& 3) →
      a₂ = (a₀ &&& ~~~0xcfff#32) ||| ((r &&& ~~~m) &&& 0xcfff) →
      b₂ = (b₀ &&& ~~~3#32) ||| (((r &&& ~~~m) >>> 12) &&& 3) →
    execTimes .toggleReset 16 s = .next
      (({ s with csr := { s.csr with rstclk := a₂, blken := b₂ } }.modAgent s.turn fun g =>
        { g.completed 15 with tmp := ⟨a₀, b₀, r &&& ~~~m, b₁⟩ }).emit
        [.acq s.turn,
          .rd s.turn (s.regAddr .rstclk) a₀, .rd s.turn (s.regAddr .blken) b₀,
          .rd s.turn (s.regAddr .rstclk) a₀, .wr s.turn (s.regAddr .rstclk) a₁,
          .rd s.turn (s.regAddr .blken) b₀, .wr s.turn (s.regAddr .blken) b₁,
          .wait s.turn 20,
          .rd s.turn (s.regAddr .rstclk) a₁, .wr s.turn (s.regAddr .rstclk) a₂,
          .rd s.turn (s.regAddr .blken) b₁, .wr s.turn (s.regAddr .blken) b₂,
          .rel s.turn]) ∧
    rstDecode a₂ b₂ = r &&& ~~~m &&& 0xffff

/-- R155 to R162, R164: BRINGUP from any register values ends with the four named resets de-asserted, the
four clocks enabled, bits 21 to 26 of the fixup register clear, every other bit as it was, and the guard
free. -/
def Obligations.BringupReachesItsEndState : Prop :=
  ∀ (s : State) (e : Nat), s.WindowOk → s.Ready → s.guard = .free →
    s.cfg.extFixupAddr = some e →
    ¬ (s.base.toNat ≤ e ∧ e < s.base.toNat + s.cfg.windowSize) →
    ∃ t, execTimes .bringup 55 s = .next t ∧
      t.csr = { s.csr with
        rstclk := (s.csr.rstclk &&& ~~~(clkMask s.cfg ||| 0x0000cfff)) ||| clkMask s.cfg |||
          ((s.resetState &&& ~~~rst4 s.cfg) &&& 0x0000cfff),
        blken := (s.csr.blken &&& ~~~3#32) |||
          (((s.resetState &&& ~~~rst4 s.cfg) >>> 12) &&& 3) } ∧
      t.ext = s.ext &&& ~~~0x07E00000#32 ∧ t.guard = .free ∧
      (t.agent s.turn).cpc = (s.agent s.turn).cpc + 1 ∧ (t.agent s.turn).uprog = [] ∧
      (t.agent s.turn).rdata = (s.agent s.turn).rdata ∧ (t.agent s.turn).stopped = false ∧
      (∀ b, b ≠ s.turn → t.agent b = s.agent b) ∧
      t.bound = s.bound ∧ t.base = s.base ∧ t.cfg = s.cfg ∧ t.drawCount = s.drawCount

/-- R164, second part: the clock field of the word-A writes of BRINGUP (the first write changes resets
only), and the named reset lines held in word A at the same writes: each domain's reset is released while
its clock alone is enabled. -/
def Obligations.BringupShowsItsClockAndResetOrder : Prop :=
  ∀ (s : State) (e : Nat), s.WindowOk → s.Ready → s.guard = .free →
    s.cfg.extFixupAddr = some e →
    ¬ (s.base.toNat ≤ e ∧ e < s.base.toNat + s.cfg.windowSize) →
    ∃ (t : State) (h : List Event),
    execTimes .bringup 55 s = .next t ∧ t.history = s.history ++ h ∧
    ∀ n x i c0 c1 : Word, n = rst4 s.cfg &&& 0xcfff → x = rstmAxi s.cfg → i = rstmIsp s.cfg →
      c0 = rstmCsi0 s.cfg → c1 = rstmCsi1 s.cfg →
    (h.filterMap (Event.writeTo (s.regAddr .rstclk))).map (clkDecode s.cfg) =
      [s.clockState, 0xF, 0x0, 0x2, 0x2, 0x0, 0x1, 0x1, 0x0, 0xC, 0xC, 0x0, 0xF] ∧
    (h.filterMap (Event.writeTo (s.regAddr .rstclk))).map (· &&& n) =
      [n, n, n, n, n &&& ~~~x, n &&& ~~~x, n &&& ~~~x, n &&& ~~~x &&& ~~~i,
        n &&& ~~~x &&& ~~~i, n &&& ~~~x &&& ~~~i, n &&& ~~~x &&& ~~~i &&& ~~~(c0 ||| c1),
        n &&& ~~~x &&& ~~~i &&& ~~~(c0 ||| c1), n &&& ~~~x &&& ~~~i &&& ~~~(c0 ||| c1)]

/-- R180: GET_INT_STATUS returns the input of the instant of its read; the read clears nothing. The value
is free: the statement holds for every value of `intSrc`. -/
def Obligations.GetIntStatusReturnsTheInput : Prop :=
  ∀ s : State, s.WindowOk → s.Ready →
    execTimes .getIntStatus 3 s = .next
      ((s.modAgent s.turn fun g =>
        { g.completed 2 with tmp := g.tmp.set .x0 s.intSrc, rdata := s.intSrc }).emit
        [.rd s.turn (s.regAddr .intsts) s.intSrc, .ret s.turn s.intSrc])

/-- R181, R182: GET_INT_MASK returns INTMSK; SET_INT_MASK stores DATA in it with no read first. -/
def Obligations.InterruptMaskIsReadAndWrittenWhole : Prop :=
  ∀ s : State, s.WindowOk → s.Ready →
    execTimes .getIntMask 3 s = .next
      ((s.modAgent s.turn fun g =>
        { g.completed 2 with tmp := g.tmp.set .x0 s.csr.intmsk, rdata := s.csr.intmsk }).emit
        [.rd s.turn (s.regAddr .intmsk) s.csr.intmsk, .ret s.turn s.csr.intmsk]) ∧
    execTimes .setIntMask 2 s = .next
      (({ s with csr := { s.csr with intmsk := (s.agent s.turn).data } }.modAgent s.turn fun g =>
        g.completed 1).emit [.wr s.turn (s.regAddr .intmsk) (s.agent s.turn).data])

/-- R183: SET_AXI_MODE sets or clears the bit of its bus in AXISW and writes every other bit back as
read. -/
def Obligations.SetAxiModeWritesItsBusBit : Prop :=
  ∀ (s : State) (bus : Nat) (off : Bool), s.WindowOk → s.Ready → bus < s.cfg.nAxiBus → ∀ w : Word,
    w = (s.csr.axisw &&& ~~~(1#32 <<< bus)) ||| (if off then 1#32 <<< bus else 0) →
    execTimes (.setAxiMode bus off) 3 s = .next
      (({ s with csr := { s.csr with axisw := w } }.modAgent s.turn fun g =>
        { g.completed 2 with tmp := g.tmp.set .x3 s.csr.axisw }).emit
        [.rd s.turn (s.regAddr .axisw) s.csr.axisw, .wr s.turn (s.regAddr .axisw) w]) ∧
    axiOffline w bus = off

/-- R106: RAW_READ of a register's offset has that register's value; of any other offset of the window, a
fresh draw (R68), whatever it is. -/
def Obligations.RawReadReturnsTheWindowWord : Prop :=
  ∀ s : State, s.WindowOk → s.Ready → (s.agent s.turn).addr.toNat % 4 = 0 →
    (s.agent s.turn).addr.toNat < s.cfg.windowSize →
    (∀ r, (s.agent s.turn).addr.toNat = regOffset s.cfg r →
      execTimes .rawRead 3 s = .next
        ((s.modAgent s.turn fun g =>
          { g.completed 2 with tmp := g.tmp.set .x0 (s.readReg r), rdata := s.readReg r }).emit
          [.rd s.turn (s.base + (s.agent s.turn).addr) (s.readReg r),
            .ret s.turn (s.readReg r)])) ∧
    ((∀ r, (s.agent s.turn).addr.toNat ≠ regOffset s.cfg r) →
      ∃ v, execTimes .rawRead 3 s = .next
        (({ s with drawCount := s.drawCount + 1 }.modAgent s.turn fun g =>
          { g.completed 2 with tmp := g.tmp.set .x0 v, rdata := v }).emit
          [.rd s.turn (s.base + (s.agent s.turn).addr) v, .ret s.turn v]))

/-- R107, R102: RAW_WRITE_MASKED reads the word and writes it back with the bits under MASK from DATA;
a write to INTSTS or to an unmodelled word is recorded and changes no register (R67, R68). -/
def Obligations.RawWriteMaskedWritesUnderItsMask : Prop :=
  ∀ s : State, s.WindowOk → s.Ready → (s.agent s.turn).addr.toNat % 4 = 0 →
    (s.agent s.turn).addr.toNat < s.cfg.windowSize →
    (∀ r v w, (s.agent s.turn).addr.toNat = regOffset s.cfg r → v = s.readReg r →
      w = (v &&& ~~~(s.agent s.turn).mask) ||| ((s.agent s.turn).data &&& (s.agent s.turn).mask) →
      execTimes .rawWriteMasked 3 s = .next
        (((s.writeReg r w).modAgent s.turn fun g =>
          { g.completed 2 with tmp := g.tmp.set .x3 v }).emit
          [.rd s.turn (s.base + (s.agent s.turn).addr) v,
            .wr s.turn (s.base + (s.agent s.turn).addr) w])) ∧
    ((∀ r, (s.agent s.turn).addr.toNat ≠ regOffset s.cfg r) →
      ∃ v, execTimes .rawWriteMasked 3 s = .next
        (({ s with drawCount := s.drawCount + 1 }.modAgent s.turn fun g =>
          { g.completed 2 with tmp := g.tmp.set .x3 v }).emit
          [.rd s.turn (s.base + (s.agent s.turn).addr) v,
            .wr s.turn (s.base + (s.agent s.turn).addr)
              ((v &&& ~~~(s.agent s.turn).mask) |||
                ((s.agent s.turn).data &&& (s.agent s.turn).mask))]))

/-! ## The guarded commands while other agents run -/

/-- R151: from the state in which an agent has just taken the guard for TOGGLE_RESET to the state before
its REL, in any run of the machine in which no other agent writes word A or word B and no BIND event falls
(a BIND issued before the window was bound could still move it: DEDUCED, log entry 10), the agent's writes and wait are exactly the five of the trace law, and the reset state ends at
`r & ~m & 0xffff`. -/
def Obligations.ToggleTraceHoldsInEveryUndisturbedRun : Prop :=
  ∀ (s t : State) (a : AgentId) (g : Agent) (h : List Event),
    s.WindowOk → lookupAgent s.agents a = some g → g.uprog = toggleResetProg → g.upc = 1 →
    Reaches s t → t.history = s.history ++ h →
    (∀ e ∈ h, e.Undisturbing a [s.regAddr .rstclk, s.regAddr .blken]) →
    (t.agent a).uprog = toggleResetProg → (t.agent a).upc = 14 → (t.agent a).cpc = g.cpc →
    ∀ a₀ b₀ m r : Word, a₀ = s.csr.rstclk → b₀ = s.csr.blken → m = g.mask → r = s.resetState →
    h.filter (Event.writesOrWaits a) =
      [.wr a (s.regAddr .rstclk) ((a₀ &&& ~~~0xcfff#32) ||| ((r ||| m) &&& 0xcfff)),
        .wr a (s.regAddr .blken) ((b₀ &&& ~~~3#32) ||| (((r ||| m) >>> 12) &&& 3)),
        .wait a 20,
        .wr a (s.regAddr .rstclk) ((a₀ &&& ~~~0xcfff#32) ||| ((r &&& ~~~m) &&& 0xcfff)),
        .wr a (s.regAddr .blken) ((b₀ &&& ~~~3#32) ||| (((r &&& ~~~m) >>> 12) &&& 3))] ∧
    t.resetState = r &&& ~~~m &&& 0xffff

/-- R164, end state: from the state in which an agent has just taken the guard for BRINGUP to the state
before its REL, in any run in which no other agent writes word A, word B or the fixup register and no BIND
event falls (DEDUCED, log entry 10, as above), the registers end as the law says. -/
def Obligations.BringupEndStateHoldsInEveryUndisturbedRun : Prop :=
  ∀ (s t : State) (a : AgentId) (g : Agent) (e : Nat) (h : List Event),
    s.WindowOk → lookupAgent s.agents a = some g → g.uprog = bringupProg s.cfg → g.upc = 1 →
    s.cfg.extFixupAddr = some e →
    ¬ (s.base.toNat ≤ e ∧ e < s.base.toNat + s.cfg.windowSize) →
    Reaches s t → t.history = s.history ++ h →
    (∀ x ∈ h, x.Undisturbing a [s.regAddr .rstclk, s.regAddr .blken, BitVec.ofNat 64 e]) →
    (t.agent a).uprog = bringupProg s.cfg → (t.agent a).upc = 53 → (t.agent a).cpc = g.cpc →
    t.csr.rstclk = (s.csr.rstclk &&& ~~~(clkMask s.cfg ||| 0x0000cfff)) ||| clkMask s.cfg |||
      ((s.resetState &&& ~~~rst4 s.cfg) &&& 0x0000cfff) ∧
    t.csr.blken = (s.csr.blken &&& ~~~3#32) |||
      (((s.resetState &&& ~~~rst4 s.cfg) >>> 12) &&& 3) ∧
    t.ext = s.ext &&& ~~~0x07E00000#32

/-- R64, R102, R107, R243, R245: the store of a masked write uses the word its own read left in x[3],
whatever the register holds by then: what another agent wrote in between outside the mask is overwritten.
First for the store of any masked write at all, then that every store of RAW_WRITE_MASKED, SET_ISP_CLOCK,
SET_RESET, SET_AXI_MODE, TOGGLE_RESET and BRINGUP is one, its read the micro-op before it; then the words
four of these stores leave, written out. -/
def Obligations.MaskedWriteOverwritesWhatFellBetween : Prop :=
  (∀ (i : Instr) (s : State) (p : Place) (m v : Expr) (ad : Addr) (w : Word),
    s.enabled s.turn = true → s.currentOp = some (.st p (maskedExpr m v)) →
    s.placeAddr (s.agent s.turn) p = some ad → s.target ad ≠ none →
    w = ((s.agent s.turn).tmp.x3 &&& ~~~eval s.cfg (s.agent s.turn) m) |||
      (eval s.cfg (s.agent s.turn) v &&& eval s.cfg (s.agent s.turn) m) →
    ∃ t, exec i s = .next t ∧ t.history = s.history ++ [.wr s.turn ad w] ∧
      ∀ u, s.storedWord ad = some u → t.storedWord ad = some w) ∧
  (∀ (c : Config) (i : Instr) (k : Nat) (p : Place) (e : Expr),
    i ∈ [Instr.rawWriteMasked, .setIspClock, .setReset, .toggleReset, .bringup] ∨
      (∃ bus off, i = .setAxiMode bus off) →
    (program c i)[k]? = some (.st p e) →
    ∃ j m v, k = j + 1 ∧ (program c i)[j]? = some (.ld .x3 p) ∧ e = maskedExpr m v) ∧
  ∀ s : State, s.WindowOk → s.enabled s.turn = true →
    ((s.agent s.turn).uprog = setIspClockProg s.cfg → (s.agent s.turn).upc = 1 →
      ∃ t, exec .setIspClock s = .next t ∧ t.csr = { s.csr with
        rstclk := ((s.agent s.turn).tmp.x3 &&& ~~~clkMask s.cfg) |||
          clkEncode s.cfg ((s.agent s.turn).data.extractLsb' 0 4) }) ∧
    ((s.agent s.turn).uprog = setResetProg → (s.agent s.turn).upc = 1 →
      ∃ t, exec .setReset s = .next t ∧ t.csr = { s.csr with
        rstclk := ((s.agent s.turn).tmp.x3 &&& ~~~0xcfff#32) ||| ((s.agent s.turn).data &&& 0xcfff) }) ∧
    ((s.agent s.turn).uprog = setResetProg → (s.agent s.turn).upc = 3 →
      ∃ t, exec .setReset s = .next t ∧ t.csr = { s.csr with
        blken := ((s.agent s.turn).tmp.x3 &&& ~~~3#32) |||
          (((s.agent s.turn).data >>> 12) &&& 3) }) ∧
    (∀ bus off, (s.agent s.turn).uprog = setAxiModeProg bus off → (s.agent s.turn).upc = 1 →
      ∃ t, exec (.setAxiMode bus off) s = .next t ∧ t.csr = { s.csr with
        axisw := ((s.agent s.turn).tmp.x3 &&& ~~~axiBit bus) |||
          (if off then axiBit bus else 0) })

/-- R244: the value GET_RESET returns is put together from the words its two reads returned, whatever
the registers hold by then: it may mix word A and word B of different moments. -/
def Obligations.GetResetReturnsWhatItsTwoReadsGave : Prop :=
  ∀ s : State, s.enabled s.turn = true → (s.agent s.turn).uprog = getResetProg →
    (s.agent s.turn).upc = 2 →
    ∃ t, exec .getReset s = .next t ∧
      (t.agent s.turn).rdata =
        ((s.agent s.turn).tmp.x0 &&& 0xcfff) ||| (((s.agent s.turn).tmp.x1 &&& 3) <<< 12) ∧
      t.csr = s.csr

/-! ## Frames -/

/-- R65, R67 to R70: a step of a command other than BIND changes no byte of the byte view but those of the
word it stores to, whose address is that of the place its micro-op names; a step that is no store changes
no byte. -/
def Obligations.StoresChangeOnlyTheStoredWord : Prop :=
  ∀ (i : Instr) (s t : State), i ≠ .bind → s.OnCommand i → exec i s = .next t →
    (∀ p e ad, s.currentOp = some (.st p e) → s.placeAddr (s.agent s.turn) p = some ad →
      ∀ b : Addr, (b.toNat < ad.toNat ∨ ad.toNat + 3 < b.toNat) → t.byteAt b = s.byteAt b) ∧
    ((∀ p e, s.currentOp ≠ some (.st p e)) → ∀ b : Addr, t.byteAt b = s.byteAt b)

/-- R121, R132 and the "Flags written" of every command: one step of a command changes no register but
those the command writes, and the fixup register only in BRINGUP. RAW_WRITE_MASKED writes the word its
operand names, which the byte frame states. -/
def Obligations.CommandsWriteOnlyTheirRegisters : Prop :=
  ∀ (i : Instr) (s t : State), s.WindowOk → s.OnCommand i →
    (i = .bringup → s.checkFixup = none) →
    (i = .rawWriteMasked → s.inWindow (s.base + (s.agent s.turn).addr) = true) →
    exec i s = .next t →
    (i ≠ .rawWriteMasked → ∀ r, r ∉ writtenRegs i → t.readReg r = s.readReg r) ∧
    (i ≠ .bringup → t.ext = s.ext) ∧
    t.intSrc = s.intSrc ∧ t.intIn = s.intIn ∧ t.turn = s.turn ∧ t.turns = s.turns ∧
    t.tick = s.tick

/-- R104: RET is the last micro-op of each getter and occurs nowhere else, and no other micro-op, so no
command that is not a getter, writes RDATA. -/
def Obligations.OnlyReturnsWriteRdata : Prop :=
  (∀ c i, getter i = true → ∃ p e, program c i = p ++ [.ret e] ∧ ∀ e', MicroOp.ret e' ∉ p) ∧
  (∀ c i, getter i = false → ∀ e, MicroOp.ret e ∉ program c i) ∧
  (∀ (i : Instr) (s t : State), exec i s = .next t → (∀ e, s.currentOp ≠ some (.ret e)) →
    (t.agent s.turn).rdata = (s.agent s.turn).rdata) ∧
  (∀ (i : Instr) (s t : State), getter i = false → s.OnCommand i → exec i s = .next t →
    (t.agent s.turn).rdata = (s.agent s.turn).rdata)

/-- R35: no command but BIND writes `bound` or BASE, and no step takes the binding back (R232). -/
def Obligations.OnlyBindWritesTheBinding : Prop :=
  (∀ (i : Instr) (s t : State), i ≠ .bind → s.OnCommand i → exec i s = .next t →
    t.bound = s.bound ∧ t.base = s.base) ∧
  ∀ s t : State, step s = .next t → s.bound = true → t.bound = true

/-- R140: TOGGLE_RESET and BRINGUP begin with ACQ, end with REL and hold the guard across their whole
body; no other command's step changes the guard. -/
def Obligations.OnlyGuardedCommandsTouchTheGuard : Prop :=
  (∀ i, guarded i = true ↔ i = .toggleReset ∨ i = .bringup) ∧
  (∀ c i, guarded i = true →
    ∃ p, program c i = .acq :: (p ++ [.rel]) ∧ MicroOp.acq ∉ p ∧ MicroOp.rel ∉ p) ∧
  ∀ (i : Instr) (s t : State), guarded i = false → s.OnCommand i → exec i s = .next t →
    t.guard = s.guard

/-- R30, R32, R33, R213: a step changes the record of one agent, the one that moves, and of that one never
the program or the refusal mark (exec), nor the configuration. That the configuration and the programs
stand in State, where no step changes them, is log entries 1 (DEDUCED) and 4 (DESIGN CHOICE); that `turn`
names the agent that moved is log entry 5 (DESIGN CHOICE). -/
def Obligations.StepsLeaveOtherAgentsAlone : Prop :=
  (∀ (i : Instr) (s t : State), exec i s = .next t →
    (∀ b, b ≠ s.turn → t.agent b = s.agent b) ∧ t.cfg = s.cfg ∧
    (t.agent s.turn).prog = (s.agent s.turn).prog ∧
    (t.agent s.turn).cmd = (s.agent s.turn).cmd ∧
    (t.agent s.turn).data = (s.agent s.turn).data ∧
    (t.agent s.turn).mask = (s.agent s.turn).mask ∧
    (t.agent s.turn).addr = (s.agent s.turn).addr ∧
    (t.agent s.turn).refused = (s.agent s.turn).refused) ∧
  ∀ (s t : State), step s = .next t →
    t.cfg = s.cfg ∧ (∀ b, (t.agent b).prog = (s.agent b).prog) ∧
    ∃ a rest, s.mover = some (a, rest) ∧ t.turn = a ∧ ∀ b, b ≠ a → t.agent b = s.agent b

/-- R70, R74: a step of a command appends at most one event, of the agent that moves, and never changes
what the history holds; a read or a store appends exactly its own event. -/
def Obligations.EachAccessIsRecordedOnce : Prop :=
  ∀ (i : Instr) (s t : State), s.enabled s.turn = true → exec i s = .next t →
    (t.history = s.history ∨ ∃ e, t.history = s.history ++ [e] ∧ e.agent = s.turn) ∧
    (∀ x p, (s.agent s.turn).uprog ≠ [] → s.currentOp = some (.ld x p) →
      ∃ ad v, s.placeAddr (s.agent s.turn) p = some ad ∧
        t.history = s.history ++ [.rd s.turn ad v]) ∧
    (∀ p e, (s.agent s.turn).uprog ≠ [] → s.currentOp = some (.st p e) →
      ∃ ad, s.placeAddr (s.agent s.turn) p = some ad ∧
        t.history = s.history ++ [.wr s.turn ad (eval s.cfg (s.agent s.turn) e)])

/-! ## The registers -/

/-- R65: in a step of the machine, a read event of a storage register has the value the register held, a
write event sets it, and without a write event to it the register stays: it returns the value of the last
write to it, or its power-on value. -/
def Obligations.StoredRegistersChangeOnlyByRecordedWrites : Prop :=
  ∀ (s t : State) (r : Reg), s.WindowOk → r ≠ .intsts → step s = .next t →
    (∀ a v, t.history = s.history ++ [.rd a (s.regAddr r) v] → v = s.readReg r) ∧
    (∀ a v, t.history = s.history ++ [.wr a (s.regAddr r) v] → t.readReg r = v) ∧
    ((∀ a v, t.history ≠ s.history ++ [.wr a (s.regAddr r) v]) → t.readReg r = s.readReg r)

/-- R66 to R68: a read of INTSTS is the input of the instant and a write to it changes nothing; an
unmodelled word of the window reads as a draw, each read taking its own, and a write changes no modelled
state. -/
def Obligations.StatusAndUnmodelledWordsHoldNoState : Prop :=
  ∀ s : State, s.WindowOk →
    s.memRead (s.regAddr .intsts) = some (s.intSrc, s) ∧
    (∀ v, s.memWrite (s.regAddr .intsts) v = some s) ∧
    ∀ off : Nat, off % 4 = 0 → off < s.cfg.windowSize → (∀ r, off ≠ regOffset s.cfg r) →
      s.memRead (s.base + BitVec.ofNat 64 off) =
        some (Config.freeRead s.drawCount, { s with drawCount := s.drawCount + 1 }) ∧
      ∀ v, s.memWrite (s.base + BitVec.ofNat 64 off) v = some s

/-- R69: the fixup register, outside the window, is storage. -/
def Obligations.FixupRegisterIsStorage : Prop :=
  ∀ (s : State) (e : Nat) (v : Word), configOk s.cfg = true → s.cfg.extFixupAddr = some e →
    ¬ (s.base.toNat ≤ e ∧ e < s.base.toNat + s.cfg.windowSize) →
    s.memRead (BitVec.ofNat 64 e) = some (s.ext, s) ∧
    s.memWrite (BitVec.ofNat 64 e) v = some { s with ext := v } ∧
    { s with ext := v }.memRead (BitVec.ofNat 64 e) = some (v, { s with ext := v })

/-- R60: byte k of a register word is its bits 8k+7 to 8k. -/
def Obligations.ByteViewIsLittleEndian : Prop :=
  ∀ (s : State) (r : Reg) (k : Nat), s.WindowOk → r ≠ .intsts → k < 4 →
    s.byteAt (s.regAddr r + BitVec.ofNat 64 k) = some ((s.readReg r).extractLsb' (8 * k) 8)

/-- R50, R120, R128, R131, R184, R185: the outputs. -/
def Obligations.OutputsFollowTheRegisters : Prop :=
  ∀ s : State,
    s.rstO = ((s.csr.rstclk &&& 0xcfff) ||| ((s.csr.blken &&& 3) <<< 12)).extractLsb' 0 16 ∧
    s.clkEnO = clkDecode s.cfg s.csr.rstclk ∧
    s.axiOfflineO = s.csr.axisw ∧ s.lpClkCfgO = s.csr.lpclk ∧
    (s.cfg.intMaskPolarity = .enableHigh →
      (s.irqO = true ↔ s.intSrc &&& s.csr.intmsk ≠ 0)) ∧
    (s.cfg.intMaskPolarity = .maskHigh →
      (s.irqO = true ↔ s.intSrc &&& ~~~s.csr.intmsk ≠ 0))

/-! ## Invariants and whole-machine rules -/

/-- R230: every power-on state, whatever its draws, meets the invariant, and the state after reset is one.
The values State.reset gives the drawn registers are the model's choice (log entry 3); the statement does
not name them. -/
def Obligations.PowerOnMeetsTheInvariant : Prop :=
  State.reset.PowerOn ∧ ∀ s : State, s.PowerOn → s.Inv

/-- The invariant is kept by every step from every state that meets it. -/
def Obligations.StepKeepsTheInvariant : Prop :=
  ∀ s t : State, s.Inv → step s = .next t → t.Inv

/-- R205: from a state that meets the invariant no step makes an access to an address that does not
exist, and while a command runs its agent takes no fault. -/
def Obligations.AdmittedCommandsNeverFault : Prop :=
  ∀ s : State, s.Inv →
    step s ≠ .fault .noSuchAddress ∧
    ∀ t a, step s = .next t → (s.agent a).uprog ≠ [] →
      (t.agent a).fault = none ∧ (t.agent a).refused = none

/-- R247, R146: from a state that meets the invariant the machine is never stuck: when no agent moves, the
state is final or some agent has a fault or refusal, whatever the rest of the configuration, as long as
AGENTS is a set (R31; log entry 16); so `step` never answers runStuck, whatever the configuration. That the
end of a run is a stop of `step` is the model's choice, log entry 8. -/
def Obligations.RunsNeverGetStuck : Prop :=
  ∀ s : State, s.Inv →
    (s.cfg.agents.Nodup → s.mover = none →
      s.final = true ∨ ∃ p ∈ s.agents, p.2.stopped = true) ∧
    step s ≠ .fault .runStuck

/-- R146: the agent that holds the guard always has an enabled step. -/
def Obligations.GuardHolderIsAlwaysEnabled : Prop :=
  ∀ (s : State) (a : AgentId), s.Inv → s.guard = .held a → s.enabled a = true

/-- R141 to R143: every step keeps the law of the guard over the history, and the guard is what the
history's ACQ and REL events make it. -/
def Obligations.StepKeepsTheGuardLaw : Prop :=
  ∀ s t : State, Guard.free.replay s.history = some s.guard → step s = .next t →
    Guard.free.replay t.history = some t.guard

/-- R147: in every run from every power-on state, between an ACQ of an agent and its next REL there is no
ACQ of another agent, and no event of another agent of its core. -/
def Obligations.GuardedSectionsExcludeEachOther : Prop :=
  ∀ s t : State, s.PowerOn → Reaches s t → Excludes t.history

/-- R165, last sentence: at most one agent is in a sequencer state other than IDLE, T_ACQ and B_ACQ. -/
def Obligations.AtMostOneAgentIsInsideTheSequencer : Prop :=
  ∀ (s : State) (a b : AgentId), s.Inv →
    (s.agent a).seqState ∉ [SeqState.idle, .tAcq, .bAcq] →
    (s.agent b).seqState ∉ [SeqState.idle, .tAcq, .bAcq] → a = b

/-- R165: the sequencer state of an agent running a guarded command, by its micro-op range. -/
def Obligations.SequencerStatesFollowTheMicroOps : Prop :=
  ∀ g : Agent,
    (g.uprog = [] → g.seqState = .idle) ∧
    (g.uprog ≠ [] → decode g.cmd = .op .toggleReset →
      (g.upc = 0 → g.seqState = .tAcq) ∧ (1 ≤ g.upc → g.upc ≤ 3 → g.seqState = .tRead) ∧
      (4 ≤ g.upc → g.upc ≤ 7 → g.seqState = .tAssert) ∧ (g.upc = 8 → g.seqState = .tWait) ∧
      (9 ≤ g.upc → g.upc ≤ 13 → g.seqState = .tDeassert) ∧ (g.upc = 14 → g.seqState = .tRel)) ∧
    (g.uprog ≠ [] → decode g.cmd = .op .bringup →
      (g.upc = 0 → g.seqState = .bAcq) ∧
      (1 ≤ g.upc → g.upc ≤ 8 → g.seqState = .b1AssertAll) ∧
      (9 ≤ g.upc → g.upc ≤ 12 → g.seqState = .b2ClkPulse) ∧
      (13 ≤ g.upc → g.upc ≤ 24 → g.seqState = .b3Axi) ∧
      (25 ≤ g.upc → g.upc ≤ 36 → g.seqState = .b4IspTop) ∧
      (37 ≤ g.upc → g.upc ≤ 48 → g.seqState = .b5CsiMac) ∧
      (49 ≤ g.upc → g.upc ≤ 50 → g.seqState = .b6ClkAll) ∧
      (51 ≤ g.upc → g.upc ≤ 52 → g.seqState = .b7Fixup) ∧ (g.upc = 53 → g.seqState = .bRel))

/-- R150, R155: TOGGLE_RESET has 15 micro-ops and 10 accesses, BRINGUP 54 and 44. -/
def Obligations.GuardedCommandsHaveTheirLengths : Prop :=
  ∀ c : Config, toggleResetProg.length = 15 ∧ (bringupProg c).length = 54 ∧
    (toggleResetProg.filter fun op =>
      match op with | .ld _ _ => true | .st _ _ => true | _ => false).length = 10 ∧
    ((bringupProg c).filter fun op =>
      match op with | .ld _ _ => true | .st _ _ => true | _ => false).length = 44

/-- R247: a step from a final state ends the run; a state in which an agent has a fault or refusal is not
final. That the end of a run is a stop of `step` is the model's choice, log entry 8. -/
def Obligations.FinalStateEndsTheRun : Prop :=
  (∀ s : State, configOk s.cfg = true → agentSetOk s.cfg = true → s.final = true →
    step s = .fault .runFinal) ∧
  ∀ (s : State) (a : AgentId) (g : Agent), (a, g) ∈ s.agents → g.stopped = true →
    s.final = false
end

