-- ==== Sys2Proof/Laws/State.lean ====
section
/-! SUPPORT. One lemma per field per update of the state, true by rfl, and the lookup lemmas of the
agents' list. -/

namespace Sys2Proof.Machine

/-! ## Changing an agent's record -/

@[simp] theorem State.modAgent_cfg (s : State) (a : AgentId) (f : Agent → Agent) :
    (s.modAgent a f).cfg = s.cfg := rfl

@[simp] theorem State.modAgent_bound (s : State) (a : AgentId) (f : Agent → Agent) :
    (s.modAgent a f).bound = s.bound := rfl

@[simp] theorem State.modAgent_base (s : State) (a : AgentId) (f : Agent → Agent) :
    (s.modAgent a f).base = s.base := rfl

@[simp] theorem State.modAgent_csr (s : State) (a : AgentId) (f : Agent → Agent) :
    (s.modAgent a f).csr = s.csr := rfl

@[simp] theorem State.modAgent_ext (s : State) (a : AgentId) (f : Agent → Agent) :
    (s.modAgent a f).ext = s.ext := rfl

@[simp] theorem State.modAgent_guard (s : State) (a : AgentId) (f : Agent → Agent) :
    (s.modAgent a f).guard = s.guard := rfl

@[simp] theorem State.modAgent_history (s : State) (a : AgentId) (f : Agent → Agent) :
    (s.modAgent a f).history = s.history := rfl

@[simp] theorem State.modAgent_intSrc (s : State) (a : AgentId) (f : Agent → Agent) :
    (s.modAgent a f).intSrc = s.intSrc := rfl

@[simp] theorem State.modAgent_intIn (s : State) (a : AgentId) (f : Agent → Agent) :
    (s.modAgent a f).intIn = s.intIn := rfl

@[simp] theorem State.modAgent_turn (s : State) (a : AgentId) (f : Agent → Agent) :
    (s.modAgent a f).turn = s.turn := rfl

@[simp] theorem State.modAgent_turns (s : State) (a : AgentId) (f : Agent → Agent) :
    (s.modAgent a f).turns = s.turns := rfl

@[simp] theorem State.modAgent_tick (s : State) (a : AgentId) (f : Agent → Agent) :
    (s.modAgent a f).tick = s.tick := rfl

@[simp] theorem State.modAgent_drawCount (s : State) (a : AgentId) (f : Agent → Agent) :
    (s.modAgent a f).drawCount = s.drawCount := rfl

/-! ## Appending an event -/

@[simp] theorem State.record_cfg (s : State) (e : Event) : (s.record e).cfg = s.cfg := rfl

@[simp] theorem State.record_bound (s : State) (e : Event) : (s.record e).bound = s.bound := rfl

@[simp] theorem State.record_base (s : State) (e : Event) : (s.record e).base = s.base := rfl

@[simp] theorem State.record_csr (s : State) (e : Event) : (s.record e).csr = s.csr := rfl

@[simp] theorem State.record_ext (s : State) (e : Event) : (s.record e).ext = s.ext := rfl

@[simp] theorem State.record_guard (s : State) (e : Event) : (s.record e).guard = s.guard := rfl

@[simp] theorem State.record_agents (s : State) (e : Event) : (s.record e).agents = s.agents := rfl

@[simp] theorem State.record_intSrc (s : State) (e : Event) : (s.record e).intSrc = s.intSrc := rfl

@[simp] theorem State.record_intIn (s : State) (e : Event) : (s.record e).intIn = s.intIn := rfl

@[simp] theorem State.record_turn (s : State) (e : Event) : (s.record e).turn = s.turn := rfl

@[simp] theorem State.record_turns (s : State) (e : Event) : (s.record e).turns = s.turns := rfl

@[simp] theorem State.record_tick (s : State) (e : Event) : (s.record e).tick = s.tick := rfl

@[simp] theorem State.record_drawCount (s : State) (e : Event) : (s.record e).drawCount = s.drawCount := rfl

@[simp] theorem State.record_history (s : State) (e : Event) :
    (s.record e).history = s.history ++ [e] := rfl

/-! ## Storing into a register -/

@[simp] theorem State.writeReg_cfg (s : State) (r : Reg) (v : Word) :
    (s.writeReg r v).cfg = s.cfg := by cases r <;> rfl

@[simp] theorem State.writeReg_bound (s : State) (r : Reg) (v : Word) :
    (s.writeReg r v).bound = s.bound := by cases r <;> rfl

@[simp] theorem State.writeReg_base (s : State) (r : Reg) (v : Word) :
    (s.writeReg r v).base = s.base := by cases r <;> rfl

@[simp] theorem State.writeReg_ext (s : State) (r : Reg) (v : Word) :
    (s.writeReg r v).ext = s.ext := by cases r <;> rfl

@[simp] theorem State.writeReg_guard (s : State) (r : Reg) (v : Word) :
    (s.writeReg r v).guard = s.guard := by cases r <;> rfl

@[simp] theorem State.writeReg_agents (s : State) (r : Reg) (v : Word) :
    (s.writeReg r v).agents = s.agents := by cases r <;> rfl

@[simp] theorem State.writeReg_history (s : State) (r : Reg) (v : Word) :
    (s.writeReg r v).history = s.history := by cases r <;> rfl

@[simp] theorem State.writeReg_intSrc (s : State) (r : Reg) (v : Word) :
    (s.writeReg r v).intSrc = s.intSrc := by cases r <;> rfl

@[simp] theorem State.writeReg_intIn (s : State) (r : Reg) (v : Word) :
    (s.writeReg r v).intIn = s.intIn := by cases r <;> rfl

@[simp] theorem State.writeReg_turn (s : State) (r : Reg) (v : Word) :
    (s.writeReg r v).turn = s.turn := by cases r <;> rfl

@[simp] theorem State.writeReg_turns (s : State) (r : Reg) (v : Word) :
    (s.writeReg r v).turns = s.turns := by cases r <;> rfl

@[simp] theorem State.writeReg_tick (s : State) (r : Reg) (v : Word) :
    (s.writeReg r v).tick = s.tick := by cases r <;> rfl

@[simp] theorem State.writeReg_drawCount (s : State) (r : Reg) (v : Word) :
    (s.writeReg r v).drawCount = s.drawCount := by cases r <;> rfl

/-- A register read after a write to it gives the value written, for the five that store (R65). -/
theorem State.readReg_writeReg_self (s : State) (r : Reg) (v : Word) (h : r ≠ .intsts) :
    (s.writeReg r v).readReg r = v := by cases r <;> first | rfl | exact absurd rfl h

/-- A write to one register leaves every other one as it was. -/
theorem State.readReg_writeReg_other (s : State) (r q : Reg) (v : Word) (h : q ≠ r) :
    (s.writeReg r v).readReg q = s.readReg q := by
  cases r <;> cases q <;> first | rfl | exact absurd rfl h

/-! ## Temporaries -/

@[simp] theorem Temps.get_set_self (t : Temps) (i : Tmp) (v : Word) : (t.set i v).get i = v := by
  cases i <;> rfl

theorem Temps.get_set_other (t : Temps) (i j : Tmp) (v : Word) (h : j ≠ i) :
    (t.set i v).get j = t.get j := by
  cases i <;> cases j <;> first | rfl | exact absurd rfl h

/-! ## Looking an agent up -/

/-- Changing one agent's record changes that record and no other. -/
theorem lookupAgent_map (l : List (AgentId × Agent)) (a b : AgentId) (f : Agent → Agent) :
    lookupAgent (l.map fun p => if p.1 = a then (p.1, f p.2) else p) b =
      if b = a then (lookupAgent l b).map f else lookupAgent l b := by
  induction l with
  | nil => simp [lookupAgent]
  | cons p l ih =>
    obtain ⟨c, g⟩ := p
    by_cases hc : c = a <;> by_cases hb : b = c <;> by_cases hab : b = a <;>
      simp_all [lookupAgent]

theorem State.lookup_modAgent_self (s : State) (a : AgentId) (f : Agent → Agent) :
    lookupAgent (s.modAgent a f).agents a = (lookupAgent s.agents a).map f := by
  simp [State.modAgent, lookupAgent_map]

theorem State.lookup_modAgent_other (s : State) (a b : AgentId) (f : Agent → Agent) (h : b ≠ a) :
    lookupAgent (s.modAgent a f).agents b = lookupAgent s.agents b := by
  simp [State.modAgent, lookupAgent_map, h]

/-- Another agent's record is private to it. -/
theorem State.agent_modAgent_other (s : State) (a b : AgentId) (f : Agent → Agent) (h : b ≠ a) :
    (s.modAgent a f).agent b = s.agent b := by
  simp [State.agent, State.lookup_modAgent_other s a b f h]

theorem State.agent_modAgent_self (s : State) (a : AgentId) (f : Agent → Agent)
    (h : (lookupAgent s.agents a).isSome) : (s.modAgent a f).agent a = f (s.agent a) := by
  obtain ⟨g, hg⟩ := Option.isSome_iff_exists.mp h
  simp [State.agent, State.lookup_modAgent_self, hg]

@[simp] theorem State.record_agent (s : State) (e : Event) (a : AgentId) :
    (s.record e).agent a = s.agent a := rfl

@[simp] theorem State.writeReg_agent (s : State) (r : Reg) (v : Word) (a : AgentId) :
    (s.writeReg r v).agent a = s.agent a := by cases r <;> rfl

/-- The list of agents keeps its ids. -/
@[simp] theorem State.modAgent_ids (s : State) (a : AgentId) (f : Agent → Agent) :
    (s.modAgent a f).agents.map (·.1) = s.agents.map (·.1) := by
  simp only [State.modAgent, List.map_map]
  apply List.map_congr_left
  intro p _
  by_cases h : p.1 = a <;> simp [h]

/-- Two changes of one agent's record are one. -/
theorem State.modAgent_modAgent (s : State) (a : AgentId) (f g : Agent → Agent) :
    (s.modAgent a f).modAgent a g = s.modAgent a (g ∘ f) := by
  simp only [State.modAgent, List.map_map]
  congr 1
  apply List.map_congr_left
  intro p _
  by_cases h : p.1 = a <;> simp [h]

/-- An agent with an enabled step is an agent of the machine. -/
theorem State.lookup_of_enabled {s : State} {a : AgentId} (h : s.enabled a = true) :
    lookupAgent s.agents a = some (s.agent a) := by
  unfold State.enabled at h
  unfold State.agent
  cases hl : lookupAgent s.agents a with
  | none => simp [hl] at h
  | some g => rfl

end Sys2Proof.Machine
end

