-- ==== Sys2Proof/Laws/Ops.lean ====
section
/-! SUPPORT. One lemma per shared operation that says once what it does: the address map, the bus
accesses, who may step, and one step of a command. -/

namespace Sys2Proof.Machine

/-! ## The configuration and the address map -/

/-- What R7 (1) gives: the six offsets are distinct, aligned and inside the window. -/
theorem offsets_of_configOk {c : Config} (h : configOk c = true) :
    (offsets c).Nodup ∧ ∀ o ∈ offsets c, o % 4 = 0 ∧ o < c.windowSize := by
  simp only [configOk, offsetsOk, Bool.and_eq_true, decide_eq_true_eq, List.all_eq_true] at h
  exact ⟨h.1.1.1.1.1.1, h.1.1.1.1.1.2⟩

/-- What R7 (4) gives. -/
theorem clkBitsOk_of_configOk {c : Config} (h : configOk c = true) : clkBitsOk c = true := by
  simp only [configOk, Bool.and_eq_true] at h
  exact h.1.1.2

/-- What R7 (3) gives. -/
theorem rstBitsOk_of_configOk {c : Config} (h : configOk c = true) : rstBitsOk c = true := by
  simp only [configOk, Bool.and_eq_true] at h
  exact h.1.1.1.2

theorem regOffset_mem (c : Config) (r : Reg) : regOffset c r ∈ offsets c := by
  cases r <;> simp [regOffset, offsets]

theorem regOffset_lt {c : Config} (h : configOk c = true) (r : Reg) :
    regOffset c r < c.windowSize := ((offsets_of_configOk h).2 _ (regOffset_mem c r)).2

theorem regOffset_aligned {c : Config} (h : configOk c = true) (r : Reg) :
    regOffset c r % 4 = 0 := ((offsets_of_configOk h).2 _ (regOffset_mem c r)).1

/-- The offset of a register names that register. -/
theorem regAt_regOffset {c : Config} (h : configOk c = true) (r : Reg) :
    regAt c (regOffset c r) = some r := by
  have hn := (offsets_of_configOk h).1
  simp only [offsets, List.nodup_cons, List.mem_cons, List.not_mem_nil, not_or] at hn
  obtain ⟨⟨h1, h2, h3, h4, h5, -⟩, ⟨h6, h7, h8, h9, -⟩, ⟨h10, h11, h12, -⟩, ⟨h13, h14, -⟩,
    ⟨h15, -⟩, -⟩ := hn
  cases r <;>
    simp [regAt, regOffset, Ne.symm h1, Ne.symm h2, Ne.symm h3, Ne.symm h4, Ne.symm h5, Ne.symm h6,
      Ne.symm h7, Ne.symm h8, Ne.symm h9, Ne.symm h10, Ne.symm h11, Ne.symm h12, Ne.symm h13,
      Ne.symm h14, Ne.symm h15]

/-- An offset that names a register is that register's offset. -/
theorem regOffset_of_regAt {c : Config} {off : Nat} {r : Reg} (h : regAt c off = some r) :
    off = regOffset c r := by
  unfold regAt at h
  split_ifs at h <;> simp_all <;> subst h <;> simp [regOffset]

/-- An offset that is none of the six names no register. -/
theorem regAt_eq_none {c : Config} {off : Nat} (h : ∀ r, off ≠ regOffset c r) :
    regAt c off = none := by
  cases hr : regAt c off with
  | none => rfl
  | some r => exact absurd (regOffset_of_regAt hr) (h r)

/-- A word of the bound window: its address does not wrap. -/
theorem State.windowAddr_toNat {s : State} (h : s.WindowOk) {off : Nat}
    (ho : off < s.cfg.windowSize) : (s.base + BitVec.ofNat 64 off).toNat = s.base.toNat + off := by
  have h2 := h.2.2.2
  have h3 := s.base.isLt
  simp only [BitVec.toNat_add, BitVec.toNat_ofNat]
  rw [Nat.mod_eq_of_lt (by omega : off < 2 ^ 64), Nat.mod_eq_of_lt (by omega)]

theorem State.regAddr_toNat {s : State} (h : s.WindowOk) (r : Reg) :
    (s.regAddr r).toNat = s.base.toNat + regOffset s.cfg r :=
  windowAddr_toNat h (regOffset_lt h.1 r)

/-- The target of an aligned word of the bound window: the register at its offset, or none of them. -/
theorem State.target_window {s : State} (h : s.WindowOk) {off : Nat} (ha : off % 4 = 0)
    (ho : off < s.cfg.windowSize) :
    (∀ r, regAt s.cfg off = some r → s.target (s.base + BitVec.ofNat 64 off) = some (.reg r)) ∧
    (regAt s.cfg off = none → s.target (s.base + BitVec.ofNat 64 off) = some .unmodelled) := by
  have hn := windowAddr_toNat h ho
  have hb := h.2.2.1
  have hw : s.inWindow (s.base + BitVec.ofNat 64 off) = true := by
    simp only [State.inWindow, hn, h.2.1, Bool.true_and, decide_eq_true_eq]
    omega
  have hal : ¬ (s.base.toNat + off) % 4 ≠ 0 := by omega
  unfold State.target
  rw [hn, if_neg hal, if_pos hw, Nat.add_sub_cancel_left]
  constructor
  · intro r hr; simp [hr]
  · intro hr; simp [hr]

/-- The target of a register's address. -/
theorem State.target_regAddr {s : State} (h : s.WindowOk) (r : Reg) :
    s.target (s.regAddr r) = some (.reg r) := by
  exact (target_window h (regOffset_aligned h.1 r) (regOffset_lt h.1 r)).1 r (regAt_regOffset h.1 r)

/-- An address that names a register is that register's address. -/
theorem State.regAddr_of_target {s : State} {ad : Addr} {r : Reg}
    (h : s.target ad = some (.reg r)) : ad = s.regAddr r := by
  unfold State.target at h
  split_ifs at h with h1 h2 h3
  swap
  · simp at h
  cases hr : regAt s.cfg (ad.toNat - s.base.toNat) with
  | none => simp [hr] at h
  | some q =>
    simp only [hr, Option.some.injEq, Target.reg.injEq] at h
    subst h
    have hw : s.base.toNat ≤ ad.toNat := by
      simp only [State.inWindow, Bool.and_eq_true, decide_eq_true_eq] at h2
      exact h2.2.1
    have ho := regOffset_of_regAt hr
    have hlt := ad.isLt
    apply BitVec.eq_of_toNat_eq
    simp only [State.regAddr, BitVec.toNat_add, BitVec.toNat_ofNat]
    rw [← ho, Nat.mod_eq_of_lt (by omega : ad.toNat - s.base.toNat < 2 ^ 64),
      Nat.mod_eq_of_lt (by omega)]
    omega

theorem State.memRead_reg {s : State} (h : s.WindowOk) (r : Reg) :
    s.memRead (s.regAddr r) = some (s.readReg r, s) := by
  simp [State.memRead, target_regAddr h r]

theorem State.memWrite_reg {s : State} (h : s.WindowOk) (r : Reg) (v : Word) :
    s.memWrite (s.regAddr r) v = some (s.writeReg r v) := by
  simp [State.memWrite, target_regAddr h r]

/-- What a read can do: it gives a value, and changes at most the counter of the draws. -/
theorem State.memRead_cases {s t : State} {ad : Addr} {v : Word}
    (h : s.memRead ad = some (v, t)) :
    t = s ∨ (s.target ad = some .unmodelled ∧ t = { s with drawCount := s.drawCount + 1 }) := by
  unfold State.memRead at h
  cases ht : s.target ad with
  | none => simp [ht] at h
  | some x =>
    cases x with
    | reg r => simp [ht] at h; exact .inl h.2.symm
    | unmodelled => simp [ht] at h; exact .inr ⟨rfl, h.2.symm⟩
    | ext => simp [ht] at h; exact .inl h.2.symm

/-- What a write can do: store into the register it names, nothing, or into the fixup register. -/
theorem State.memWrite_cases {s t : State} {ad : Addr} {v : Word}
    (h : s.memWrite ad v = some t) :
    (∃ r, s.target ad = some (.reg r) ∧ t = s.writeReg r v) ∨
      (s.target ad = some .unmodelled ∧ t = s) ∨
      (s.target ad = some .ext ∧ t = { s with ext := v }) := by
  unfold State.memWrite at h
  cases ht : s.target ad with
  | none => simp [ht] at h
  | some x =>
    cases x with
    | reg r => simp [ht] at h; exact .inl ⟨r, rfl, h.symm⟩
    | unmodelled => simp [ht] at h; exact .inr (.inl ⟨rfl, h.symm⟩)
    | ext => simp [ht] at h; exact .inr (.inr ⟨rfl, h.symm⟩)

/-! ## Who may step -/

/-- Who may step, for an agent of the machine. -/
theorem State.enabled_eq {s : State} {a : AgentId} {g : Agent}
    (h : lookupAgent s.agents a = some g) :
    s.enabled a = (!g.stopped && !s.excluded a && s.hasWork a g) := by
  simp [State.enabled, h]

/-- A running agent's work is the micro-op at its counter. -/
theorem State.hasWork_running {s : State} {a : AgentId} {g : Agent} {op : MicroOp}
    (h : g.uprog[g.upc]? = some op) : s.hasWork a g = s.opEnabled a op := by
  have hne : g.uprog ≠ [] := by rintro hn; simp [hn] at h
  simp [State.hasWork, Agent.idle, hne, h]

/-! ## One step of a command -/

/-- Every meaning is one step of its command: its preconditions and its micro-program. -/
theorem exec_eq (i : Instr) (s : State) :
    exec i s = commandStep (precondition s i) (program s.cfg i) s := by
  cases i <;> rfl

theorem exec_of_not_enabled {i : Instr} {s : State} (h : s.enabled s.turn = false) :
    exec i s = .next s := by
  rw [exec_eq, commandStep, if_neg (by simp [h])]

/-- The issue step. -/
theorem exec_issue {i : Instr} {s : State} (h : s.Ready) :
    exec i s = .next (issue s s.turn (precondition s i) (program s.cfg i)) := by
  rw [exec_eq, commandStep, if_pos h.1, if_pos h.2]

/-- A step of a running command is its current micro-op. -/
theorem exec_running {i : Instr} {s : State} {op : MicroOp} (h : s.enabled s.turn = true)
    (hr : (s.agent s.turn).uprog ≠ []) (ho : s.currentOp = some op) :
    exec i s = runOp s s.turn op := by
  unfold State.currentOp at ho
  rw [exec_eq, commandStep, if_pos h, if_neg (by simpa [Agent.idle] using hr), ho]

/-- What a step of a command can be: no step, the issue step, or the current micro-op. -/
theorem exec_cases (i : Instr) (s : State) :
    (s.enabled s.turn = false ∧ exec i s = .next s) ∨
    (s.Ready ∧ exec i s = .next (issue s s.turn (precondition s i) (program s.cfg i))) ∨
    (∃ op, s.enabled s.turn = true ∧ (s.agent s.turn).uprog ≠ [] ∧ s.currentOp = some op ∧
      exec i s = runOp s s.turn op) := by
  cases he : s.enabled s.turn with
  | false => exact .inl ⟨rfl, exec_of_not_enabled he⟩
  | true =>
    by_cases hi : (s.agent s.turn).uprog = []
    · exact .inr (.inl ⟨⟨he, by simpa [Agent.idle] using hi⟩,
        exec_issue ⟨he, by simpa [Agent.idle] using hi⟩⟩)
    · cases ho : s.currentOp with
      | some op => exact .inr (.inr ⟨op, rfl, hi, rfl, exec_running he hi ho⟩)
      | none =>
        unfold State.currentOp at ho
        rw [State.enabled_eq (State.lookup_of_enabled he)] at he
        simp [State.hasWork, Agent.idle, hi, ho] at he

/-- LD at a place whose word exists. -/
theorem runLd_eq {s t : State} {a : AgentId} {i : Tmp} {p : Place} {ad : Addr} {v : Word}
    (hp : s.placeAddr (s.agent a) p = some ad) (hm : s.memRead ad = some (v, t)) :
    runLd s a i p = .next ((t.modAgent a fun g =>
      Agent.advance { g with tmp := g.tmp.set i v }).record (.rd a ad v)) := by
  simp [runLd, hp, hm]

/-- ST at a place whose word exists. -/
theorem runSt_eq {s t : State} {a : AgentId} {p : Place} {e : Expr} {ad : Addr}
    (hp : s.placeAddr (s.agent a) p = some ad)
    (hm : s.memWrite ad (eval s.cfg (s.agent a) e) = some t) :
    runSt s a p e = .next ((t.modAgent a Agent.advance).record
      (.wr a ad (eval s.cfg (s.agent a) e))) := by
  simp [runSt, hp, hm]

/-- LD of a register, the window bound. -/
theorem runOp_ld_reg {s : State} (h : s.WindowOk) (a : AgentId) (i : Tmp) (r : Reg) :
    runOp s a (.ld i (.reg r)) = .next ((s.modAgent a fun g =>
      Agent.advance { g with tmp := g.tmp.set i (s.readReg r) }).record
        (.rd a (s.regAddr r) (s.readReg r))) :=
  runLd_eq (i := i) (p := .reg r) rfl (State.memRead_reg h r)

/-- ST to a register, the window bound. -/
theorem runOp_st_reg {s : State} (h : s.WindowOk) (a : AgentId) (r : Reg) (e : Expr) :
    runOp s a (.st (.reg r) e) =
      .next (((s.writeReg r (eval s.cfg (s.agent a) e)).modAgent a Agent.advance).record
        (.wr a (s.regAddr r) (eval s.cfg (s.agent a) e))) :=
  runSt_eq (p := .reg r) rfl (State.memWrite_reg h r _)

/-- What LD can do: stop at an address that does not exist, or read. -/
theorem runLd_cases (s : State) (a : AgentId) (i : Tmp) (p : Place) :
    runLd s a i p = .fault .noSuchAddress ∨
    ∃ ad v t, s.placeAddr (s.agent a) p = some ad ∧ s.memRead ad = some (v, t) ∧
      runLd s a i p = .next ((t.modAgent a fun g =>
        Agent.advance { g with tmp := g.tmp.set i v }).record (.rd a ad v)) := by
  cases hp : s.placeAddr (s.agent a) p with
  | none => exact .inl (by simp [runLd, hp])
  | some ad =>
    cases hm : s.memRead ad with
    | none => exact .inl (by simp [runLd, hp, hm])
    | some vt => exact .inr ⟨ad, vt.1, vt.2, rfl, hm, runLd_eq hp hm⟩

/-- What ST can do: stop at an address that does not exist, or write. -/
theorem runSt_cases (s : State) (a : AgentId) (p : Place) (e : Expr) :
    runSt s a p e = .fault .noSuchAddress ∨
    ∃ ad t, s.placeAddr (s.agent a) p = some ad ∧
      s.memWrite ad (eval s.cfg (s.agent a) e) = some t ∧
      runSt s a p e = .next ((t.modAgent a Agent.advance).record
        (.wr a ad (eval s.cfg (s.agent a) e))) := by
  cases hp : s.placeAddr (s.agent a) p with
  | none => exact .inl (by simp [runSt, hp])
  | some ad =>
    cases hm : s.memWrite ad (eval s.cfg (s.agent a) e) with
    | none => exact .inl (by simp [runSt, hp, hm])
    | some t => exact .inr ⟨ad, t, rfl, hm, runSt_eq hp hm⟩

/-! ## The masked write -/

/-- What a masked write stores is the masked value of the word its read left in x[3] (R102). -/
theorem eval_maskedExpr (c : Config) (g : Agent) (m v : Expr) :
    eval c g (maskedExpr m v) = maskedValue g.tmp.x3 (eval c g m) (eval c g v) := rfl

/-- Every store of the list is a masked write's, right after its own read. -/
def StoresMasked (l : List MicroOp) : Prop :=
  ∀ (k : Nat) (p : Place) (e : Expr), l[k]? = some (.st p e) →
    ∃ j m v, k = j + 1 ∧ l[j]? = some (.ld .x3 p) ∧ e = maskedExpr m v

/-- Two such lists joined are one. -/
theorem StoresMasked.append {l l' : List MicroOp} (h : StoresMasked l) (h' : StoresMasked l') :
    StoresMasked (l ++ l') := by
  intro k p e hk
  by_cases hl : k < l.length
  · rw [List.getElem?_append_left hl] at hk
    obtain ⟨j, m, v, rfl, hj, he⟩ := h k p e hk
    exact ⟨j, m, v, rfl, by rw [List.getElem?_append_left (by omega)]; exact hj, he⟩
  · rw [List.getElem?_append_right (by omega)] at hk
    obtain ⟨j, m, v, hkj, hj, he⟩ := h' _ p e hk
    refine ⟨l.length + j, m, v, by omega, ?_, he⟩
    rw [List.getElem?_append_right (by omega), Nat.add_sub_cancel_left]
    exact hj

/-- The masked write itself is one (R102). -/
theorem storesMasked_maskedWrite (p : Place) (m v : Expr) : StoresMasked (maskedWrite p m v) := by
  intro k q e hk
  match k, hk with
  | 0, hk => simp [maskedWrite] at hk
  | 1, hk =>
    simp only [maskedWrite, List.getElem?_cons_succ, List.getElem?_cons_zero, Option.some.injEq,
      MicroOp.st.injEq] at hk
    obtain ⟨rfl, rfl⟩ := hk
    exact ⟨0, m, v, rfl, rfl, rfl⟩
  | k + 2, hk => simp [maskedWrite] at hk

/-- So is a list without a store. -/
theorem storesMasked_of_no_store {l : List MicroOp} (h : ∀ p e, MicroOp.st p e ∉ l) :
    StoresMasked l := fun _ p e hk => absurd (List.mem_of_getElem? hk) (h p e)

/-- The steps of one command in a row, split. -/
theorem execTimes_succ (i : Instr) (n : Nat) {s t : State} (h : exec i s = .next t) :
    execTimes i (n + 1) s = execTimes i n t := by simp [execTimes, h]

end Sys2Proof.Machine
end

