-- ==== Sys2Proof/Laws/PerInstr.lean ====
section
/-! SUPPORT. A law of every instruction as syntax: the fields its word carries (spec/30_encoding.md R87,
R88). -/

namespace Sys2Proof.Laws.Encoding

/-- The word of a well-formed instruction carries its opcode in bits 3:0 and zero in bits 31:10, and
operand bits only where the instruction is SET_AXI_MODE. -/
def Statement (i : Instr) : Prop :=
  i.wf = true →
    opcField (encode i) = i.opcode ∧ reservedField (encode i) = 0 ∧
      (i.opcode ≠ 0xC → operandField (encode i) = 0)

theorem bind : Statement .bind := by intro _; decide

theorem getIspClock : Statement .getIspClock := by intro _; decide

theorem setIspClock : Statement .setIspClock := by intro _; decide

theorem getLpClock : Statement .getLpClock := by intro _; decide

theorem setLpClock : Statement .setLpClock := by intro _; decide

theorem getReset : Statement .getReset := by intro _; decide

theorem setReset : Statement .setReset := by intro _; decide

theorem toggleReset : Statement .toggleReset := by intro _; decide

theorem getIntStatus : Statement .getIntStatus := by intro _; decide

theorem getIntMask : Statement .getIntMask := by intro _; decide

theorem setIntMask : Statement .setIntMask := by intro _; decide

theorem bringup : Statement .bringup := by intro _; decide

theorem setAxiMode (bus : Nat) (offline : Bool) : Statement (.setAxiMode bus offline) := by
  intro h
  simp only [Instr.wf, decide_eq_true_eq] at h
  cases offline <;> interval_cases bus <;> decide

theorem rawRead : Statement .rawRead := by intro _; decide

theorem rawWriteMasked : Statement .rawWriteMasked := by intro _; decide

end Sys2Proof.Laws.Encoding
end

