-- ==== Sys2Proof/Laws/Solo.lean ====
section
/-! SUPPORT. One agent running its command with no other agent in between: a normal form of the state
that its micro-ops keep, one lemma per kind of micro-op. -/

namespace Sys2Proof.Machine

/-- The record of an agent at micro-op `k` of a micro-program, its temporaries changed by `tf`. -/
def soloAgent (prog : List MicroOp) (k : Nat) (tf : Temps → Temps) (g : Agent) : Agent :=
  { g with uprog := prog, upc := k, tmp := tf g.tmp }

/-- The state an agent's running command has made of `s`: the registers, the fixup register, the guard,
its own record, and the events appended. -/
def State.solo (s : State) (a : AgentId) (prog : List MicroOp) (k : Nat) (tf : Temps → Temps)
    (c : Csr) (x : Word) (gd : Guard) (es : List Event) : State :=
  ({ s with csr := c, ext := x, guard := gd }.modAgent a (soloAgent prog k tf)).emit es

/-- The value of a register, the stored ones taken from `c`. -/
def State.regOf (s : State) (c : Csr) (r : Reg) : Word := { s with csr := c }.readReg r

/-- The stored registers after a write. -/
def Csr.store (c : Csr) (r : Reg) (v : Word) : Csr :=
  match r with
  | .rstclk => { c with rstclk := v }
  | .blken => { c with blken := v }
  | .lpclk => { c with lpclk := v }
  | .intsts => c
  | .intmsk => { c with intmsk := v }
  | .axisw => { c with axisw := v }

/-- The guard does not keep the agent from its steps. -/
def Guard.lets (gd : Guard) (a : AgentId) : Prop :=
  ∀ g, gd = .held g → ¬ (a ≠ g ∧ a.core = g.core)

/-- What the solo lemmas assume of the start state: the window is bound, and the agent whose turn it is
is an agent of the machine that is not stopped. -/
structure State.SoloStart (s : State) (g : Agent) : Prop where
  window : s.WindowOk
  here : lookupAgent s.agents s.turn = some g
  live : g.stopped = false

theorem State.excluded_of_lets {s : State} {a : AgentId} (h : s.guard.lets a) :
    s.excluded a = false := by
  unfold State.excluded
  cases hg : s.guard with
  | free => rfl
  | held b => simpa using h b hg

/-- The agent whose turn it is, in a ready state. -/
theorem State.soloStart_of_ready {s : State} (hw : s.WindowOk) (h : s.Ready) :
    s.SoloStart (s.agent s.turn) := by
  refine ⟨hw, State.lookup_of_enabled h.1, ?_⟩
  have he := h.1
  rw [State.enabled_eq (State.lookup_of_enabled h.1)] at he
  simp only [Bool.and_eq_true, Bool.not_eq_true'] at he
  exact he.1.1

/-- In a ready state the guard lets the agent step. -/
theorem State.lets_of_ready {s : State} (h : s.Ready) : s.guard.lets s.turn := by
  have he := h.1
  rw [State.enabled_eq (State.lookup_of_enabled h.1)] at he
  simp only [Bool.and_eq_true, Bool.not_eq_true', State.excluded] at he
  intro g hg
  simpa [hg] using he.1.2

section
variable {s : State} {g : Agent} {prog : List MicroOp} {k : Nat} {tf : Temps → Temps}
  {c : Csr} {x : Word} {gd : Guard} {es : List Event} {i : Instr}

theorem State.solo_lookup (h : s.SoloStart g) :
    lookupAgent (s.solo s.turn prog k tf c x gd es).agents s.turn = some (soloAgent prog k tf g) := by
  show lookupAgent ({ s with csr := c, ext := x, guard := gd }.modAgent s.turn _).agents s.turn = _
  rw [State.lookup_modAgent_self]
  simp [h.here]

theorem State.solo_agent (h : s.SoloStart g) :
    (s.solo s.turn prog k tf c x gd es).agent s.turn = soloAgent prog k tf g := by
  simp [State.agent, State.solo_lookup h]

theorem State.solo_windowOk (h : s.SoloStart g) :
    (s.solo s.turn prog k tf c x gd es).WindowOk := h.window

/-- A running agent that the guard lets step, with a micro-op that has a step, is enabled, and its step
is that micro-op. -/
theorem exec_solo (h : s.SoloStart g) (hl : gd.lets s.turn) {op : MicroOp}
    (ho : prog[k]? = some op)
    (hop : (s.solo s.turn prog k tf c x gd es).opEnabled s.turn op = true) :
    exec i (s.solo s.turn prog k tf c x gd es) =
      runOp (s.solo s.turn prog k tf c x gd es) s.turn op := by
  have hne : prog ≠ [] := by rintro hn; simp [hn] at ho
  have ha : (s.solo s.turn prog k tf c x gd es).agent s.turn = soloAgent prog k tf g :=
    State.solo_agent h
  have hlive : (soloAgent prog k tf g).stopped = false := h.live
  apply exec_running (s := s.solo s.turn prog k tf c x gd es)
  · show State.enabled _ s.turn = true
    rw [State.enabled_eq (State.solo_lookup h), hlive,
      State.excluded_of_lets (s := s.solo s.turn prog k tf c x gd es) hl,
      State.hasWork_running (op := op) ho, hop]
    rfl
  · show ((s.solo s.turn prog k tf c x gd es).agent s.turn).uprog ≠ []
    rw [ha]; exact hne
  · show ((s.solo s.turn prog k tf c x gd es).agent s.turn).uprog[((s.solo s.turn prog k tf c x gd
      es).agent s.turn).upc]? = _
    rw [ha]; exact ho

/-- Putting a changed record and one more event back into the normal form. -/
theorem State.solo_mod (s : State) (a : AgentId) (f f' : Agent → Agent) (c : Csr) (x : Word)
    (gd : Guard) (es : List Event) (e : Event) :
    ((({ s with csr := c, ext := x, guard := gd }.modAgent a f).emit es).modAgent a f').record e =
      ({ s with csr := c, ext := x, guard := gd }.modAgent a (f' ∘ f)).emit (es ++ [e]) := by
  rw [← State.modAgent_modAgent]
  simp [State.emit, State.record, State.modAgent, List.append_assoc]

theorem advance_soloAgent (hk : k + 1 < prog.length) (tf' : Temps → Temps) (g : Agent) :
    Agent.advance { soloAgent prog k tf g with tmp := tf' (tf g.tmp) } =
      soloAgent prog (k + 1) (fun t => tf' (tf t)) g := by
  simp [Agent.advance, soloAgent, Nat.ne_of_lt hk]

theorem advance_soloAgent_id (hk : k + 1 < prog.length) (g : Agent) :
    Agent.advance (soloAgent prog k tf g) = soloAgent prog (k + 1) tf g := by
  simp [Agent.advance, soloAgent, Nat.ne_of_lt hk]

/-- LD of a register, not the last micro-op. -/
theorem solo_ld (h : s.SoloStart g) (hl : gd.lets s.turn) {j : Tmp} {r : Reg}
    (ho : prog[k]? = some (.ld j (.reg r))) (hk : k + 1 < prog.length) :
    exec i (s.solo s.turn prog k tf c x gd es) =
      .next (s.solo s.turn prog (k + 1) (fun t => (tf t).set j (s.regOf c r)) c x gd
        (es ++ [.rd s.turn (s.regAddr r) (s.regOf c r)])) := by
  rw [exec_solo h hl ho rfl,
    runOp_ld_reg (s := s.solo s.turn prog k tf c x gd es) (State.solo_windowOk h)]
  congr 1
  unfold State.solo
  rw [State.solo_mod]
  have hf : (fun g' : Agent => Agent.advance { g' with tmp := g'.tmp.set j (s.regOf c r) }) ∘
      soloAgent prog k tf = soloAgent prog (k + 1) (fun t => (tf t).set j (s.regOf c r)) := by
    funext g'
    exact advance_soloAgent hk (fun t => t.set j (s.regOf c r)) g'
  rw [← hf]
  cases r <;> rfl

/-- ST to a register, not the last micro-op. -/
theorem solo_st (h : s.SoloStart g) (hl : gd.lets s.turn) {r : Reg} {e : Expr} {v : Word}
    (ho : prog[k]? = some (.st (.reg r) e)) (hk : k + 1 < prog.length)
    (hv : eval s.cfg (soloAgent prog k tf g) e = v) :
    exec i (s.solo s.turn prog k tf c x gd es) =
      .next (s.solo s.turn prog (k + 1) tf (c.store r v) x gd
        (es ++ [.wr s.turn (s.regAddr r) v])) := by
  subst hv
  rw [exec_solo h hl ho rfl,
    runOp_st_reg (s := s.solo s.turn prog k tf c x gd es) (State.solo_windowOk h),
    State.solo_agent h]
  congr 1
  have hf : Agent.advance ∘ soloAgent prog k tf = soloAgent prog (k + 1) tf := by
    funext g'; exact advance_soloAgent_id hk g'
  conv_rhs => unfold State.solo
  rw [← hf, ← State.solo_mod]
  cases r <;> rfl

/-- The fixup register is where BRINGUP's check left it: outside the window (R203). -/
theorem State.target_fixup {s : State} (hc : configOk s.cfg = true) {e : Nat}
    (he : s.cfg.extFixupAddr = some e)
    (hn : ¬ (s.base.toNat ≤ e ∧ e < s.base.toNat + s.cfg.windowSize)) :
    s.target (BitVec.ofNat 64 e) = some .ext := by
  have hf : e % 4 = 0 ∧ e < 2 ^ 64 := by
    simp only [configOk, Bool.and_eq_true] at hc
    have h6 := hc.2
    unfold fixupAddrOk at h6
    simpa [he] using h6
  have ht : (BitVec.ofNat 64 e).toNat = e := by
    rw [BitVec.toNat_ofNat, Nat.mod_eq_of_lt hf.2]
  unfold State.target
  rw [ht, if_neg (by omega), if_neg (by simp [State.inWindow, ht]; intro _; omega), if_pos he]

/-- LD of the fixup register, not the last micro-op. -/
theorem solo_ld_fixup (h : s.SoloStart g) (hl : gd.lets s.turn) {j : Tmp} {n : Nat}
    (he : s.cfg.extFixupAddr = some n)
    (hn : ¬ (s.base.toNat ≤ n ∧ n < s.base.toNat + s.cfg.windowSize))
    (ho : prog[k]? = some (.ld j .fixup)) (hk : k + 1 < prog.length) :
    exec i (s.solo s.turn prog k tf c x gd es) =
      .next (s.solo s.turn prog (k + 1) (fun t => (tf t).set j x) c x gd
        (es ++ [.rd s.turn (BitVec.ofNat 64 n) x])) := by
  have hp : (s.solo s.turn prog k tf c x gd es).placeAddr
      ((s.solo s.turn prog k tf c x gd es).agent s.turn) .fixup = some (BitVec.ofNat 64 n) := by
    show s.cfg.extFixupAddr.map (BitVec.ofNat 64) = _
    rw [he]; rfl
  have ht : (s.solo s.turn prog k tf c x gd es).target (BitVec.ofNat 64 n) = some .ext :=
    State.target_fixup (s := s.solo s.turn prog k tf c x gd es) h.window.1 he hn
  have hm : (s.solo s.turn prog k tf c x gd es).memRead (BitVec.ofNat 64 n) =
      some (x, s.solo s.turn prog k tf c x gd es) := by
    simp only [State.memRead, ht]; rfl
  rw [exec_solo h hl ho rfl, runOp, runLd_eq hp hm]
  congr 1
  have hf : (fun g' : Agent => Agent.advance { g' with tmp := g'.tmp.set j x }) ∘
      soloAgent prog k tf = soloAgent prog (k + 1) (fun t => (tf t).set j x) := by
    funext g'
    exact advance_soloAgent hk (fun t => t.set j x) g'
  unfold State.solo
  rw [State.solo_mod, hf]

/-- ST to the fixup register, not the last micro-op. -/
theorem solo_st_fixup (h : s.SoloStart g) (hl : gd.lets s.turn) {n : Nat} {e : Expr} {v : Word}
    (he : s.cfg.extFixupAddr = some n)
    (hn : ¬ (s.base.toNat ≤ n ∧ n < s.base.toNat + s.cfg.windowSize))
    (ho : prog[k]? = some (.st .fixup e)) (hk : k + 1 < prog.length)
    (hv : eval s.cfg (soloAgent prog k tf g) e = v) :
    exec i (s.solo s.turn prog k tf c x gd es) =
      .next (s.solo s.turn prog (k + 1) tf c v gd
        (es ++ [.wr s.turn (BitVec.ofNat 64 n) v])) := by
  subst hv
  have ha := State.solo_agent (prog := prog) (k := k) (tf := tf) (c := c) (x := x) (gd := gd)
    (es := es) h
  have hp : (s.solo s.turn prog k tf c x gd es).placeAddr
      ((s.solo s.turn prog k tf c x gd es).agent s.turn) .fixup = some (BitVec.ofNat 64 n) := by
    show s.cfg.extFixupAddr.map (BitVec.ofNat 64) = _
    rw [he]; rfl
  have ht : (s.solo s.turn prog k tf c x gd es).target (BitVec.ofNat 64 n) = some .ext :=
    State.target_fixup (s := s.solo s.turn prog k tf c x gd es) h.window.1 he hn
  have hm : (s.solo s.turn prog k tf c x gd es).memWrite (BitVec.ofNat 64 n)
      (eval (s.solo s.turn prog k tf c x gd es).cfg
        ((s.solo s.turn prog k tf c x gd es).agent s.turn) e) =
      some { s.solo s.turn prog k tf c x gd es with
        ext := eval s.cfg (soloAgent prog k tf g) e } := by
    rw [ha]; simp only [State.memWrite, ht]; rfl
  rw [exec_solo h hl ho rfl, runOp, runSt_eq hp hm, ha]
  congr 1
  have hf : Agent.advance ∘ soloAgent prog k tf = soloAgent prog (k + 1) tf := by
    funext g'; exact advance_soloAgent_id hk g'
  conv_rhs => unfold State.solo
  rw [← hf, ← State.solo_mod]
  rfl

/-- SET, not the last micro-op. -/
theorem solo_set (h : s.SoloStart g) (hl : gd.lets s.turn) {j : Tmp} {e : Expr} {v : Word}
    (ho : prog[k]? = some (.set j e)) (hk : k + 1 < prog.length)
    (hv : eval s.cfg (soloAgent prog k tf g) e = v) :
    exec i (s.solo s.turn prog k tf c x gd es) =
      .next (s.solo s.turn prog (k + 1) (fun t => (tf t).set j v) c x gd es) := by
  subst hv
  rw [exec_solo h hl ho rfl, runOp, State.solo_agent h]
  congr 1
  have hf : (fun g' : Agent => Agent.advance { g' with
      tmp := g'.tmp.set j (eval s.cfg (soloAgent prog k tf g) e) }) ∘ soloAgent prog k tf =
      soloAgent prog (k + 1) (fun t => (tf t).set j (eval s.cfg (soloAgent prog k tf g) e)) := by
    funext g'
    exact advance_soloAgent hk (fun t => t.set j (eval s.cfg (soloAgent prog k tf g) e)) g'
  unfold State.solo
  rw [← hf, ← State.modAgent_modAgent]
  rfl

/-- WAIT, not the last micro-op. -/
theorem solo_wait (h : s.SoloStart g) (hl : gd.lets s.turn) {us : Nat}
    (ho : prog[k]? = some (.wait us)) (hk : k + 1 < prog.length) :
    exec i (s.solo s.turn prog k tf c x gd es) =
      .next (s.solo s.turn prog (k + 1) tf c x gd (es ++ [.wait s.turn us])) := by
  rw [exec_solo h hl ho rfl, runOp]
  congr 1
  have hf : Agent.advance ∘ soloAgent prog k tf = soloAgent prog (k + 1) tf := by
    funext g'; exact advance_soloAgent_id hk g'
  unfold State.solo
  rw [State.solo_mod, hf]

/-- ACQ of a free guard, not the last micro-op. -/
theorem solo_acq (h : s.SoloStart g) (ho : prog[k]? = some .acq) (hk : k + 1 < prog.length) :
    exec i (s.solo s.turn prog k tf c x .free es) =
      .next (s.solo s.turn prog (k + 1) tf c x (.held s.turn) (es ++ [.acq s.turn])) := by
  rw [exec_solo h (by intro g hg; cases hg) ho (by simp [State.opEnabled, State.solo, State.emit]),
    runOp]
  congr 1
  have hf : Agent.advance ∘ soloAgent prog k tf = soloAgent prog (k + 1) tf := by
    funext g'; exact advance_soloAgent_id hk g'
  conv_rhs => unfold State.solo
  rw [← hf, ← State.solo_mod]
  rfl

/-- The record of the agent after the last micro-op of its command. -/
theorem advance_soloAgent_last (hk : k + 1 = prog.length) (g : Agent) :
    Agent.advance (soloAgent prog k tf g) =
      { g.completed (k + 1) with tmp := tf g.tmp } := by
  simp [Agent.advance, soloAgent, hk, Agent.completed]

/-- REL, the last micro-op. -/
theorem solo_rel (h : s.SoloStart g) (ho : prog[k]? = some .rel) (hk : k + 1 = prog.length) :
    exec i (s.solo s.turn prog k tf c x (.held s.turn) es) =
      .next (({ s with csr := c, ext := x, guard := .free }.modAgent s.turn fun g' =>
        { g'.completed (k + 1) with tmp := tf g'.tmp }).emit (es ++ [Event.rel s.turn])) := by
  rw [exec_solo h (by intro g hg; cases hg; simp) ho
      (by simp [State.opEnabled, State.solo, State.emit]), runOp]
  congr 1
  have hf : Agent.advance ∘ soloAgent prog k tf =
      fun g' => { g'.completed (k + 1) with tmp := tf g'.tmp } := by
    funext g'; exact advance_soloAgent_last hk g'
  rw [← hf, ← State.solo_mod]
  rfl

/-- ST to a register, the last micro-op. -/
theorem solo_st_last (h : s.SoloStart g) (hl : gd.lets s.turn) {r : Reg} {e : Expr} {v : Word}
    (ho : prog[k]? = some (.st (.reg r) e)) (hk : k + 1 = prog.length)
    (hv : eval s.cfg (soloAgent prog k tf g) e = v) :
    exec i (s.solo s.turn prog k tf c x gd es) =
      .next (({ s with csr := c.store r v, ext := x, guard := gd }.modAgent s.turn fun g' =>
        { g'.completed (k + 1) with tmp := tf g'.tmp }).emit
        (es ++ [Event.wr s.turn (s.regAddr r) v])) := by
  subst hv
  rw [exec_solo h hl ho rfl,
    runOp_st_reg (s := s.solo s.turn prog k tf c x gd es) (State.solo_windowOk h),
    State.solo_agent h]
  congr 1
  have hf : Agent.advance ∘ soloAgent prog k tf =
      fun g' => { g'.completed (k + 1) with tmp := tf g'.tmp } := by
    funext g'; exact advance_soloAgent_last hk g'
  rw [← hf, ← State.solo_mod]
  cases r <;> rfl

/-- RET, the last micro-op. -/
theorem solo_ret (h : s.SoloStart g) (hl : gd.lets s.turn) {e : Expr} {v : Word}
    (ho : prog[k]? = some (.ret e)) (hk : k + 1 = prog.length)
    (hv : eval s.cfg (soloAgent prog k tf g) e = v) :
    exec i (s.solo s.turn prog k tf c x gd es) =
      .next (({ s with csr := c, ext := x, guard := gd }.modAgent s.turn fun g' =>
        { g'.completed (k + 1) with tmp := tf g'.tmp, rdata := v }).emit
        (es ++ [Event.ret s.turn v])) := by
  subst hv
  rw [exec_solo h hl ho rfl, runOp, State.solo_agent h]
  congr 1
  have hf : (fun g' : Agent => Agent.advance { g' with
      rdata := eval s.cfg (soloAgent prog k tf g) e }) ∘ soloAgent prog k tf =
      fun g' => { g'.completed (k + 1) with
        tmp := tf g'.tmp, rdata := eval s.cfg (soloAgent prog k tf g) e } := by
    funext g'
    simp [Agent.advance, soloAgent, hk, Agent.completed]
  rw [← hf, ← State.solo_mod]
  rfl

end

/-- The issue step of a command whose preconditions hold, as the start of the normal form. -/
theorem exec_issue_solo {i : Instr} {s : State} (h : s.Ready) (hp : precondition s i = none) :
    exec i s = .next (s.solo s.turn (program s.cfg i) 0 id s.csr s.ext s.guard []) := by
  rw [exec_issue h]
  simp [issue, hp, State.solo, State.emit, soloAgent, State.modAgent]

end Sys2Proof.Machine
end

