-- ==== Sys2Proof/Tests/Slice0.lean ====
section
/-! SUPPORT. The model's own tests. Expected values come from spec/95_test_vectors.md (the section is named
at each test) or from the encoding table of spec/30_encoding.md; then one witness for the hypotheses of each
statement. -/

open Sys2Proof Sys2Proof.Machine

namespace Sys2Proof.Tests

/-! ## Small states -/

/-- The one agent of most tests: (0, Thread 0). -/
def me : AgentId := ⟨0, .thread 0⟩

/-- An agent of the same core. -/
def sibling : AgentId := ⟨0, .irq 0⟩

/-- An agent of the other core. -/
def other : AgentId := ⟨1, .thread 0⟩

/-- The base of spec/95_test_vectors.md. -/
def testBase : Addr := 0x40000000

/-- An agent that is about to issue a command, which stands in its latches and in its program. -/
def agentWith (c : Command) : Agent :=
  { Agent.reset with prog := [c], cmd := c.cmd, data := c.data, mask := c.mask, addr := c.addr }

/-- The window bound at the test base, one agent about to issue a command, the next input sample 0x104. -/
def ready (r : Csr) (x : Word) (c : Command) : State :=
  { State.reset with
    bound := true, base := testBase, csr := r, ext := x, intIn := [0x104], intSrc := 0x104,
    agents := [(me, agentWith c)] }

/-- The same with nothing bound. -/
def fresh (c : Command) : State := { ready ⟨0, 0, 0, 0, 0⟩ 0 c with bound := false, base := 0 }

/-- The agent at micro-op `k` of a micro-program. -/
def mid (s : State) (prog : List MicroOp) (k : Nat) (t : Temps) : State :=
  s.modAgent me fun g => { g with uprog := prog, upc := k, tmp := t }

/-- Two agents of one core and one of the other, the first about to issue a command. -/
def trio (c : Command) : State :=
  { ready ⟨0, 0, 0, 0, 0⟩ 0 c with
    cfg := { Config.defaultProfile with agents := [me, sibling, other] },
    agents := [(me, agentWith c), (sibling, agentWith c), (other, agentWith c)] }

/-- The next state, none at a stop. -/
def nextOf (o : Host.Outcome State Fault Refusal) : Option State :=
  match o with
  | .next t => some t
  | .fault _ => none
  | .refused _ => none

/-- The state after some steps of the machine. -/
def after (n : Nat) (s : State) : State := (nextOf (Host.Core.run Sys2Proof.core n s)).getD s

/-- What one exec leaves in the stored registers. -/
def csrOf (i : Instr) (s : State) : Option Csr := (nextOf (exec i s)).map (·.csr)

/-- The events one exec appends to an empty history. -/
def eventsOf (i : Instr) (s : State) : Option (List Event) := (nextOf (exec i s)).map (·.history)

/-- A command that names no latch. -/
def word (w : Word) : Command := ⟨w, 0, 0, 0⟩

/-! ## Form: what the checks refuse -/

theorem test_wf_refuses_bus_32 : (Instr.setAxiMode 32 true).wf = false := by decide

theorem test_wf_accepts_bus_31 : (Instr.setAxiMode 31 true).wf = true := by decide

theorem test_default_profile_is_accepted : configOk Config.defaultProfile = true := by decide

theorem test_r7_1_equal_offsets :
    offsetsOk { Config.defaultProfile with offBlken := 0 } = false := by decide

theorem test_r7_1_unaligned_offset :
    offsetsOk { Config.defaultProfile with offAxisw := 0x16 } = false := by decide

theorem test_r7_1_offset_outside :
    offsetsOk { Config.defaultProfile with offAxisw := 0x100 } = false := by decide

theorem test_r7_2_window_sizes :
    windowSizeOk { Config.defaultProfile with windowSize := 0 } = false ∧
    windowSizeOk { Config.defaultProfile with windowSize := 0x102 } = false ∧
    windowSizeOk { Config.defaultProfile with windowSize := 2 ^ 64 } = true ∧
    windowSizeOk { Config.defaultProfile with windowSize := 2 ^ 64 + 4 } = false := by decide

theorem test_r7_3_reset_bits :
    rstBitsOk { Config.defaultProfile with rstCsi1Bit := 2 } = false ∧
    rstBitsOk { Config.defaultProfile with rstCsi1Bit := 16 } = false := by decide

theorem test_r7_4_clock_bits :
    clkBitsOk { Config.defaultProfile with clkCsi1Bit := 16 } = false ∧
    clkBitsOk { Config.defaultProfile with clkCsi1Bit := 15 } = false ∧
    clkBitsOk { Config.defaultProfile with clkCsi1Bit := 32 } = false := by decide

theorem test_r7_5_bus_count :
    busCountOk { Config.defaultProfile with nAxiBus := 0 } = false ∧
    busCountOk { Config.defaultProfile with nAxiBus := 33 } = false := by decide

/-- 95_test_vectors.md section 2.6. -/
theorem test_r7_6_fixup_address :
    fixupAddrOk { Config.defaultProfile with extFixupAddr := some 0x50000002 } = false ∧
    fixupAddrOk { Config.defaultProfile with extFixupAddr := some (2 ^ 64) } = false ∧
    fixupAddrOk { Config.defaultProfile with extFixupAddr := none } = true := by decide

theorem test_agent_sets :
    agentSetOk { Config.defaultProfile with agents := [me, me] } = false ∧
    agentSetOk { Config.defaultProfile with agents := [⟨2, .thread 0⟩] } = false := by decide

/-- 43_sequencer.md R145: 20 us of a 19.2 MHz clock are 384 cycles. -/
theorem test_settle_cycles :
    settleCyclesOk { Config.defaultProfile with settleCycles := 384 } 192 10 = true ∧
    settleCyclesOk { Config.defaultProfile with settleCycles := 383 } 192 10 = false := by decide

/-! ## Decoding: one word for every constructor, bit by bit (30_encoding.md R87, R88) -/

theorem test_decode_bind : decode 0b0000000000000000000000_0_00000_0000#32 = .op .bind := by decide

theorem test_decode_getIspClock :
    decode 0b0000000000000000000000_0_00000_0001#32 = .op .getIspClock := by decide

theorem test_decode_setIspClock :
    decode 0b0000000000000000000000_0_00000_0010#32 = .op .setIspClock := by decide

theorem test_decode_getLpClock :
    decode 0b0000000000000000000000_0_00000_0011#32 = .op .getLpClock := by decide

theorem test_decode_setLpClock :
    decode 0b0000000000000000000000_0_00000_0100#32 = .op .setLpClock := by decide

theorem test_decode_getReset :
    decode 0b0000000000000000000000_0_00000_0101#32 = .op .getReset := by decide

theorem test_decode_setReset :
    decode 0b0000000000000000000000_0_00000_0110#32 = .op .setReset := by decide

theorem test_decode_toggleReset :
    decode 0b0000000000000000000000_0_00000_0111#32 = .op .toggleReset := by decide

theorem test_decode_getIntStatus :
    decode 0b0000000000000000000000_0_00000_1000#32 = .op .getIntStatus := by decide

theorem test_decode_getIntMask :
    decode 0b0000000000000000000000_0_00000_1001#32 = .op .getIntMask := by decide

theorem test_decode_setIntMask :
    decode 0b0000000000000000000000_0_00000_1010#32 = .op .setIntMask := by decide

theorem test_decode_bringup :
    decode 0b0000000000000000000000_0_00000_1011#32 = .op .bringup := by decide

/-- Bus 7 offline, 95_test_vectors.md section 2.2 (0x27C). -/
theorem test_decode_setAxiMode :
    decode 0b0000000000000000000000_1_00111_1100#32 = .op (.setAxiMode 7 true) := by decide

theorem test_decode_rawRead :
    decode 0b0000000000000000000000_0_00000_1101#32 = .op .rawRead := by decide

theorem test_decode_rawWriteMasked :
    decode 0b0000000000000000000000_0_00000_1110#32 = .op .rawWriteMasked := by decide

/-- 95_test_vectors.md section 2.2. -/
theorem test_decode_refusals :
    decode 0x0000000F = .refused .rsvOpcode ∧ decode 0x0000041F = .refused .rsvOpcode ∧
    decode 0x00000401 = .refused .rsvField ∧ decode 0x80000005 = .refused .rsvField ∧
    decode 0x00000015 = .refused .rsvField ∧ decode 0x00000205 = .refused .rsvField ∧
    decode 0x0000040C = .refused .rsvField := by decide

/-! ## The codec and the outputs (95_test_vectors.md sections 2.1 and 2.7) -/

theorem test_clk_decode :
    clkDecode Config.defaultProfile 0x000F0000 = 0xF ∧
    clkDecode Config.defaultProfile 0x1235ABCD = 0x5 ∧
    clkDecode Config.defaultProfile 0xFFF0FFFF = 0x0 ∧
    clkDecode Config.defaultProfile 0x00020000 = 0x2 := by decide

theorem test_clk_encode :
    clkEncode Config.defaultProfile 0xC = 0x000C0000 ∧
    clkEncode Config.defaultProfile 0xF = 0x000F0000 := by decide

theorem test_rst_decode :
    rstDecode 0xFFFFFFFF 0xFFFFFFFF = 0x0000FFFF ∧ rstDecode 0x00003000 0 = 0 ∧
    rstDecode 0x0000C001 0xFFFFFFFD = 0x0000D001 := by decide

theorem test_rst_encode :
    rstEncodeA 0xFFFFFFFF = 0x0000CFFF ∧ rstEncodeB 0x00003005 = 0x00000003 ∧
    rstEncodeB 0x00010000 = 0 := by decide

/-- 95_test_vectors.md L1.7. -/
theorem test_masked_value : maskedValue 0x12345678 0x0000FF00 0x0000AB00 = 0x1234AB78 := by decide

theorem test_axi_bit : axiBit 0 = 1 ∧ axiBit 31 = 0x80000000 := by decide

theorem test_irq_enable_high :
    { State.reset with intSrc := 0x104, csr := ⟨0, 0, 0, 4, 0⟩ }.irqO = true := by decide

theorem test_irq_mask_high :
    { State.reset with
      cfg := { Config.defaultProfile with intMaskPolarity := .maskHigh },
      intSrc := 0x104, csr := ⟨0, 0, 0, 0x104, 0⟩ }.irqO = false := by decide

/-! ## Assembler lines (95_test_vectors.md sections 2.3 to 2.7) -/

theorem test_assemble_masked_write :
    assemble "raw_write_masked 0x08, 0x0000FF00, 0x0000AB00" = some ⟨0xE, 0xAB00, 0xFF00, 8⟩ := by
  decide

theorem test_assemble_realtime : assemble "set_axi_mode 31, realtime" = some (word 0x1FC) := by decide

theorem test_assemble_refuses_bus_32 : assemble "set_axi_mode 32, offline" = none := by decide

/-! ## One step of each instruction (95_test_vectors.md section 2) -/

/-- Section 2.3. -/
theorem test_bind :
    (nextOf (exec .bind (mid (fresh ⟨0, 0, 0, 0x40000000⟩) bindProg 0 ⟨0, 0, 0, 0⟩))).map
      (fun t => (t.bound, t.base, t.history)) =
    some (true, 0x40000000, [Event.bind me 0x40000000]) := by decide

/-- Section 2.3: legal, misaligned, just fitting, just not fitting. -/
theorem test_bind_checks :
    bindCheck (fresh ⟨0, 0, 0, 0⟩) = none ∧
    bindCheck (fresh ⟨0, 0, 0, 0x40000002⟩) = some .misaligned ∧
    bindCheck (fresh ⟨0, 0, 0, 0xFFFFFFFFFFFFFF00⟩) = none ∧
    bindCheck (fresh ⟨0, 0, 0, 0xFFFFFFFFFFFFFF04⟩) = some .outOfWindow ∧
    bindCheck (ready ⟨0, 0, 0, 0, 0⟩ 0 ⟨0, 0, 0, 0x40000000⟩) = some .rebind := by decide

/-- Section 2.4. -/
theorem test_get_isp_clock :
    eventsOf .getIspClock (mid (ready ⟨0x1235ABCD, 0, 0, 0, 0⟩ 0 (word 1)) getIspClockProg 1
      ⟨0x1235ABCD, 0, 0, 0⟩) = some [Event.ret me 5] := by decide

/-- Section 2.4. -/
theorem test_set_isp_clock :
    csrOf .setIspClock (mid (ready ⟨0x1234ABCD, 0, 0, 0, 0⟩ 0 ⟨2, 5, 0, 0⟩)
      (setIspClockProg Config.defaultProfile) 1 ⟨0, 0, 0, 0x1234ABCD⟩) =
    some ⟨0x1235ABCD, 0, 0, 0, 0⟩ := by decide

/-- Section 2.4: DATA[31:4] is ignored. -/
theorem test_set_isp_clock_ignores_high_data :
    csrOf .setIspClock (mid (ready ⟨0, 0, 0, 0, 0⟩ 0 ⟨2, 0xFFFFFFF3, 0, 0⟩)
      (setIspClockProg Config.defaultProfile) 1 ⟨0, 0, 0, 0⟩) =
    some ⟨0x00030000, 0, 0, 0, 0⟩ := by decide

/-- Section 2.4. -/
theorem test_get_lp_clock :
    eventsOf .getLpClock (mid (ready ⟨0, 0, 0xDEADBEEF, 0, 0⟩ 0 (word 3)) getLpClockProg 1
      ⟨0xDEADBEEF, 0, 0, 0⟩) = some [Event.ret me 0xDEADBEEF] := by decide

/-- Section 2.4: one write, no read. -/
theorem test_set_lp_clock :
    eventsOf .setLpClock (mid (ready ⟨0, 0, 9, 0, 0⟩ 0 ⟨4, 3, 0, 0⟩) setLpClockProg 0 ⟨0, 0, 0, 0⟩) =
    some [Event.wr me 0x40000008 3] := by decide

/-- Section 2.5. -/
theorem test_get_reset :
    eventsOf .getReset (mid (ready ⟨0, 0, 0, 0, 0⟩ 0 (word 5)) getResetProg 2
      ⟨0xFFFFFFFF, 0xFFFFFFFE, 0, 0⟩) = some [Event.ret me 0xEFFF] := by decide

/-- Section 2.5, word A. -/
theorem test_set_reset_word_a :
    csrOf .setReset (mid (ready ⟨0xABCD1234, 0, 0, 0, 0⟩ 0 ⟨6, 0x3005, 0, 0⟩) setResetProg 1
      ⟨0, 0, 0, 0xABCD1234⟩) = some ⟨0xABCD1005, 0, 0, 0, 0⟩ := by decide

/-- Section 2.5, word B. -/
theorem test_set_reset_word_b :
    csrOf .setReset (mid (ready ⟨0xFFFF3000, 0xFFFFFFFF, 0, 0, 0⟩ 0 ⟨6, 0, 0, 0⟩) setResetProg 3
      ⟨0, 0, 0, 0xFFFFFFFF⟩) = some ⟨0xFFFF3000, 0xFFFFFFFC, 0, 0, 0⟩ := by decide

/-- Section 2.6, third row: the line that was asserted already. -/
theorem test_toggle_reset_deassert :
    csrOf .toggleReset (mid { ready ⟨0x000F4001, 0xFFFFFFFC, 0, 0, 0⟩ 0 ⟨7, 0, 0x4000, 0⟩ with
      guard := .held me } toggleResetProg 11 ⟨0x000F4001, 0xFFFFFFFC, 1, 0x000F4001⟩) =
    some ⟨0x000F0001, 0xFFFFFFFC, 0, 0, 0⟩ := by decide

/-- 43_sequencer.md R145, R150: micro-op 8 waits 20 us. -/
theorem test_toggle_reset_wait :
    eventsOf .toggleReset (mid { ready ⟨0, 0, 0, 0, 0⟩ 0 ⟨7, 0, 2, 0⟩ with guard := .held me }
      toggleResetProg 8 ⟨0, 0, 2, 0⟩) = some [Event.wait me 20] := by decide

/-- Section 2.7. -/
theorem test_get_int_status :
    eventsOf .getIntStatus (mid (ready ⟨0, 0, 0, 0, 0⟩ 0 (word 8)) getIntStatusProg 0
      ⟨0, 0, 0, 0⟩) = some [Event.rd me 0x4000000C 0x104] := by decide

/-- Section 2.7. -/
theorem test_get_int_mask :
    eventsOf .getIntMask (mid (ready ⟨0, 0, 0, 0x12345678, 0⟩ 0 (word 9)) getIntMaskProg 0
      ⟨0, 0, 0, 0⟩) = some [Event.rd me 0x40000010 0x12345678] := by decide

/-- Section 2.7. -/
theorem test_set_int_mask :
    eventsOf .setIntMask (mid (ready ⟨0, 0, 0, 7, 0⟩ 0 ⟨0xA, 0xFF, 0, 0⟩) setIntMaskProg 0
      ⟨0, 0, 0, 0⟩) = some [Event.wr me 0x40000010 0xFF] := by decide

/-- Section 2.6, the third word-A write of BRINGUP from zero: micro-op 12 turns the clocks off. -/
theorem test_bringup_clock_off :
    csrOf .bringup (mid { ready ⟨0x000F000F, 0, 0, 0, 0⟩ 0 (word 0xB) with guard := .held me }
      (bringupProg Config.defaultProfile) 12 ⟨0, 0, 0xF, 0x000F000F⟩) =
    some ⟨0x0000000F, 0, 0, 0, 0⟩ := by decide

/-- Section 3, P3: micro-op 52 clears bits 21 to 26 of the fixup register. -/
theorem test_bringup_fixup :
    (nextOf (exec .bringup (mid { ready ⟨0, 0, 0, 0, 0⟩ 0xFFFFFFFF (word 0xB) with
      guard := .held me } (bringupProg Config.defaultProfile) 52 ⟨0, 0, 0, 0xFFFFFFFF⟩))).map
      (fun t => (t.ext, t.history)) =
    some (0xF81FFFFF, [Event.wr me 0x50000000 0xF81FFFFF]) := by decide

/-- Section 2.6: the fixup address absent, inside the window, at its ends. -/
theorem test_bringup_checks :
    ({ ready ⟨0, 0, 0, 0, 0⟩ 0 (word 0xB) with
      cfg := { Config.defaultProfile with extFixupAddr := none } }).checkFixup =
        some .fixupUnmapped ∧
    ({ ready ⟨0, 0, 0, 0, 0⟩ 0 (word 0xB) with
      cfg := { Config.defaultProfile with extFixupAddr := some 0x40000010 } }).checkFixup =
        some .fixupUnmapped ∧
    ({ ready ⟨0, 0, 0, 0, 0⟩ 0 (word 0xB) with
      cfg := { Config.defaultProfile with extFixupAddr := some 0x40000100 } }).checkFixup =
        none := by decide

/-- Section 2.7. -/
theorem test_set_axi_mode_realtime :
    csrOf (.setAxiMode 31 false) (mid (ready ⟨0, 0, 0, 0, 0xFFFFFFFF⟩ 0 (word 0x1FC))
      (setAxiModeProg 31 false) 1 ⟨0, 0, 0, 0xFFFFFFFF⟩) = some ⟨0, 0, 0, 0, 0x7FFFFFFF⟩ := by decide

/-- Section 2.7: N_AXI_BUS = 8, bus 9. -/
theorem test_set_axi_mode_bad_bus :
    eventsOf (.setAxiMode 9 true) { ready ⟨0, 0, 0, 0, 0⟩ 0 (word 0x29C) with
      cfg := { Config.defaultProfile with nAxiBus := 8 } } = some [Event.fault me .badBus] := by
  decide

/-- Section 2.3. -/
theorem test_raw_read :
    eventsOf .rawRead (mid (ready ⟨0, 0, 0, 0, 0x88⟩ 0 ⟨0xD, 0, 0, 0x14⟩) rawReadProg 0
      ⟨0, 0, 0, 0⟩) = some [Event.rd me 0x40000014 0x88] := by decide

/-- Section 2.3. -/
theorem test_raw_checks :
    rawCheck (fresh ⟨0xD, 0, 0, 0x1001⟩) = some .unbound ∧
    rawCheck (ready ⟨0, 0, 0, 0, 0⟩ 0 ⟨0xD, 0, 0, 0x1001⟩) = some .misaligned ∧
    rawCheck (ready ⟨0, 0, 0, 0, 0⟩ 0 ⟨0xD, 0, 0, 0x100⟩) = some .outOfWindow ∧
    rawCheck (ready ⟨0, 0, 0, 0, 0⟩ 0 ⟨0xD, 0, 0, 0xFC⟩) = none := by decide

/-- Section 2.3. -/
theorem test_raw_write_masked :
    csrOf .rawWriteMasked (mid (ready ⟨0, 0, 0x12345678, 0, 0⟩ 0 ⟨0xE, 0xAB00, 0xFF00, 8⟩)
      rawWriteMaskedProg 1 ⟨0, 0, 0, 0x12345678⟩) = some ⟨0, 0, 0x1234AB78, 0, 0⟩ := by decide

/-- Section 2.3: a write to INTSTS is recorded and changes nothing. -/
theorem test_raw_write_masked_intsts :
    (nextOf (exec .rawWriteMasked (mid (ready ⟨1, 2, 3, 4, 5⟩ 0 ⟨0xE, 1, 0xFFFFFFFF, 0xC⟩)
      rawWriteMaskedProg 1 ⟨0, 0, 0, 0x104⟩))).map (fun t => (t.csr, t.intSrc, t.history)) =
    some (⟨1, 2, 3, 4, 5⟩, 0x104, [Event.wr me 0x4000000C 1]) := by decide

/-- A command placed by `withFetchWord` runs as the first instruction after reset: UNBOUND, since nothing
is bound yet (section 2.3). -/
theorem test_first_step_after_reset :
    ((nextOf (step (State.reset.withFetchWord 32 5))).map fun t => t.history) =
    some [Event.fault me .unbound] := by decide

/-! ## Witnesses: states and operands that meet the hypotheses of the statements

One theorem for each statement that has hypotheses, named after it. `busy` is an agent inside
TOGGLE_RESET with the guard, `armed` an agent inside BRINGUP with it. -/

def busy : State :=
  mid { ready ⟨0x000F0001, 0, 0, 0, 0⟩ 0 ⟨7, 0, 2, 0⟩ with guard := .held me } toggleResetProg 1
    ⟨0, 0, 0, 0⟩

def armed : State :=
  mid { ready ⟨0, 0, 0, 0, 0⟩ 0xFFFFFFFF (word 0xB) with guard := .held me }
    (bringupProg Config.defaultProfile) 1 ⟨0, 0, 0, 0⟩

/-- An idle agent with the word in its latches, the window bound, everything else zero. -/
def idleWith (c : Command) : State := ready ⟨0, 0, 0, 0, 0⟩ 0 c

theorem ready_windowOk (r : Csr) (x : Word) (c : Command) : (ready r x c).WindowOk :=
  ⟨test_default_profile_is_accepted, rfl, (by decide : testBase.toNat % 4 = 0),
    (by decide : testBase.toNat + Config.defaultProfile.windowSize ≤ 2 ^ 64)⟩

theorem ready_ready (r : Csr) (x : Word) (c : Command) : (ready r x c).Ready := ⟨rfl, rfl⟩

theorem fresh_ready (c : Command) : (fresh c).Ready := ⟨rfl, rfl⟩

theorem busy_windowOk : busy.WindowOk := ⟨by decide, rfl, by decide, by decide⟩

theorem armed_windowOk : armed.WindowOk := ⟨by decide, rfl, by decide, by decide⟩

/-- The record of an agent in a list of one. -/
theorem lookup_one {a b : AgentId} {g h : Agent} (hl : lookupAgent [(a, g)] b = some h) :
    b = a ∧ h = g := by
  unfold lookupAgent at hl
  split at hl
  · exact ⟨‹_›, by simpa using hl.symm⟩
  · simp [lookupAgent] at hl

theorem busy_running : Running busy me (busy.agent me) .toggleReset :=
  ⟨by decide, by rfl, by decide, by decide, by decide, by exact (rfl : busy.bound = true),
    fun _ _ => rfl⟩

/-- The invariant holds of a state no run from reset is needed for: an agent inside TOGGLE_RESET. -/
theorem busy_inv : busy.Inv where
  keys := rfl
  binding := fun _ => ⟨by decide, by decide⟩
  index := by
    intro a g hl
    obtain ⟨rfl, rfl⟩ := lookup_one hl
    decide
  running := by
    intro a g hl _
    obtain ⟨rfl, rfl⟩ := lookup_one hl
    exact ⟨_, busy_running⟩
  holder := by
    intro a ha
    obtain rfl : me = a := by simpa [busy, mid, ready] using ha
    exact ⟨_, _, rfl, busy_running, rfl, by decide⟩

theorem witness_DecodeOfEncodeIsTheInstruction : (Instr.setAxiMode 31 true).wf = true := by decide

theorem witness_EncodeOfDecodeIsTheWord : decode 0x000003FC = .op (.setAxiMode 31 true) := by decide

theorem witness_ReservedWordsAreRefusedAtIssue (c : Command) :
    configOk (idleWith c).cfg = true ∧ agentSetOk (idleWith c).cfg = true ∧
    (idleWith c).mover = some (me, []) ∧ ((idleWith c).agent me).uprog = [] ∧
    ((idleWith c).agent me).prog[((idleWith c).agent me).cpc]? = some c :=
  ⟨test_default_profile_is_accepted, (by decide : agentSetOk Config.defaultProfile = true), rfl, rfl,
    rfl⟩

theorem witness_ReservedWordsAreRefusedAtIssue_clauses :
    (0x0000041F#32).extractLsb' 0 4 = 0xF ∧
    ((0x80000005#32).extractLsb' 0 4 ≠ 0xF ∧ (0x80000005#32).extractLsb' 10 22 ≠ 0) ∧
    ((0x00000015#32).extractLsb' 4 6 ≠ 0 ∧ (0x00000015#32).extractLsb' 0 4 ≠ 0xC) ∧
    ((0x000003FC#32).extractLsb' 0 4 = 0xC ∧ (0x000003FC#32).extractLsb' 10 22 = 0) := by decide

theorem witness_BrokenConfigurationIsRefused :
    ¬ (offsets { Config.defaultProfile with offBlken := 0 }).Nodup ∧
    (∃ o ∈ offsets { Config.defaultProfile with offAxisw := 0x100 },
      o % 4 ≠ 0 ∨ Config.defaultProfile.windowSize ≤ o) ∧
    ¬ [0, 1, 2, 2].Nodup ∧ (∃ b ∈ [0, 1, 2, 16], 16 ≤ b) ∧ (∃ b ∈ [16, 17, 18, 32], b < 16 ∨ 32 ≤ b) ∧
    32 < 33 ∧ 0x50000002 % 4 ≠ 0 := by decide

theorem witness_ClockCodecLaws : clkBitsOk Config.defaultProfile = true := by decide

theorem witness_StepRunsTheDecodedCommand :
    configOk busy.cfg = true ∧ agentSetOk busy.cfg = true ∧ busy.mover = some (me, []) ∧
    decode ((busy.begin me []).agent me).cmd = .op .toggleReset :=
  ⟨by decide, by decide, rfl, by decide⟩

theorem witness_AnyEnabledAgentMayMoveNext :
    (trio (word 5)).enabled other = true ∧
    ({ trio (word 5) with turns := [other, me] }).mover = some (other, [me]) := ⟨by decide, rfl⟩

theorem witness_IssueLoadsTheLatches :
    ((idleWith (word 5)).enabled me = true ∧ ((idleWith (word 5)).agent me).uprog = [] ∧
      ((idleWith (word 5)).agent me).prog[0]? = some (word 5) ∧
      (idleWith (word 5)).intIn = [0x104]) ∧
    (busy.enabled me = true ∧ (busy.agent me).uprog ≠ []) ∧
    ({ idleWith (word 5) with intIn := [] }).enabled me = true := by decide

theorem witness_PreconditionsAreCheckedInOrder (c : Command) :
    (idleWith c).Ready ∧ (fresh c).Ready ∧ (idleWith c).bound = true ∧ (fresh c).bound = false ∧
    (idleWith c).cfg.extFixupAddr = some 0x50000000 :=
  ⟨ready_ready _ _ _, fresh_ready _, rfl, rfl, rfl⟩

theorem witness_EveryStepOfACommandCompletes :
    (idleWith (word 5)).Ready ∧ precondition (idleWith (word 5)) .getReset = none ∧
    busy.Inv ∧ configOk busy.cfg = true ∧ busy.enabled busy.turn = true ∧
    Running busy busy.turn (busy.agent busy.turn) .toggleReset :=
  ⟨ready_ready _ _ _, by decide, busy_inv, by decide, by decide, busy_running⟩

theorem witness_EveryStepOfACommandCompletes_last :
    ((mid busy toggleResetProg 14 ⟨0, 0, 0, 0⟩).agent me).upc + 1 =
      (program Config.defaultProfile .toggleReset).length := by decide

theorem witness_FaultAtIssueStopsTheAgent :
    (fresh (word 5)).Ready ∧ precondition (fresh (word 5)) .getReset = some .unbound :=
  ⟨fresh_ready _, by decide⟩

theorem witness_StoppedAgentsStayStopped :
    State.reset.PowerOn ∧
    ((((trio (word 5)).raiseFault sibling .unbound).agent sibling).stopped = true ∧
      ∃ t, step { (trio (word 5)).raiseFault sibling .unbound with turns := [me] } = .next t) :=
  ⟨⟨rfl, rfl, rfl, rfl, fun p hp => by obtain rfl := List.mem_singleton.mp hp; exact ⟨rfl, rfl, rfl, rfl⟩⟩,
    by decide, _, rfl⟩

theorem witness_GuardExcludesTheHoldersCore :
    { trio (word 5) with guard := .held me }.guard = .held me ∧ sibling ≠ me ∧
    sibling.core = me.core ∧ other.core ≠ me.core ∧ (trio (word 5)).guard = .free := by decide

/-- An agent at ACQ with the guard free, the same with the guard held elsewhere, and one at REL. -/
theorem witness_GuardIsTakenAndReleased :
    (∃ g, lookupAgent (mid (idleWith ⟨7, 0, 2, 0⟩) toggleResetProg 0 ⟨0, 0, 0, 0⟩).agents me = some g ∧
      g.stopped = false ∧ g.uprog[g.upc]? = some .acq) ∧
    (mid (idleWith ⟨7, 0, 2, 0⟩) toggleResetProg 0 ⟨0, 0, 0, 0⟩).guard = .free ∧
    ({ mid (idleWith ⟨7, 0, 2, 0⟩) toggleResetProg 0 ⟨0, 0, 0, 0⟩ with
      guard := .held other }).excluded me = false ∧
    (∃ g, lookupAgent (mid busy toggleResetProg 14 ⟨0, 0, 0, 0⟩).agents me = some g ∧
      g.stopped = false ∧ g.uprog[g.upc]? = some .rel) ∧
    (mid busy toggleResetProg 14 ⟨0, 0, 0, 0⟩).guard = .held me ∧ busy.excluded me = false :=
  ⟨⟨_, rfl, rfl, rfl⟩, rfl, by decide, ⟨_, rfl, rfl, rfl⟩, rfl, by decide⟩

theorem witness_WaitRecordsAndChangesNothingElse :
    (mid busy toggleResetProg 8 ⟨0, 0, 0, 0⟩).enabled me = true ∧
    ((mid busy toggleResetProg 8 ⟨0, 0, 0, 0⟩).agent me).uprog ≠ [] ∧
    (mid busy toggleResetProg 8 ⟨0, 0, 0, 0⟩).currentOp = some (.wait 20) := by decide

/-- The highest base that fits. -/
theorem witness_BindBindsTheWindow :
    (fresh ⟨0, 0, 0, 0xFFFFFFFFFFFFFF00⟩).Ready ∧ (fresh ⟨0, 0, 0, 0xFFFFFFFFFFFFFF00⟩).bound = false ∧
    ((fresh ⟨0, 0, 0, 0xFFFFFFFFFFFFFF00⟩).agent me).addr.toNat % 4 = 0 ∧
    ((fresh ⟨0, 0, 0, 0xFFFFFFFFFFFFFF00⟩).agent me).addr.toNat + 0x100 ≤ 2 ^ 64 :=
  ⟨fresh_ready _, rfl, by decide, by decide⟩

/-- For the twelve statements about a command run from issue to end, whatever the registers and the
latches: GetIspClock..., SetIspClock..., LowPowerClock..., GetReset..., SetReset..., ToggleResetRuns...,
BringupReaches..., BringupShows..., GetIntStatus..., InterruptMask..., SetAxiMode..., Raw.... -/
theorem witness_commands_from_issue (r : Csr) (x : Word) (c : Command) :
    (ready r x c).WindowOk ∧ (ready r x c).Ready ∧ (ready r x c).guard = .free ∧
    (ready r x c).cfg.extFixupAddr = some 0x50000000 ∧
    ¬ ((ready r x c).base.toNat ≤ 0x50000000 ∧
      0x50000000 < (ready r x c).base.toNat + (ready r x c).cfg.windowSize) ∧
    31 < (ready r x c).cfg.nAxiBus :=
  ⟨ready_windowOk r x c, ready_ready r x c, rfl, rfl,
    (by decide : ¬ (testBase.toNat ≤ 0x50000000 ∧
      0x50000000 < testBase.toNat + Config.defaultProfile.windowSize)),
    (by decide : 31 < Config.defaultProfile.nAxiBus)⟩

/-- The last register offset, and the last word of the window, which is no register. -/
theorem witness_RawReadReturnsTheWindowWord :
    (((idleWith ⟨0xD, 0, 0, 0x14⟩).agent me).addr.toNat = regOffset Config.defaultProfile .axisw) ∧
    (((idleWith ⟨0xD, 0, 0, 0xFC⟩).agent me).addr.toNat % 4 = 0 ∧
      ((idleWith ⟨0xD, 0, 0, 0xFC⟩).agent me).addr.toNat < 0x100 ∧
      ∀ r, ((idleWith ⟨0xD, 0, 0, 0xFC⟩).agent me).addr.toNat ≠ regOffset Config.defaultProfile r) :=
  ⟨by decide, by decide, by decide, fun r => by cases r <;> decide⟩

/-- The first register, INTSTS, and the first word past the registers. -/
theorem witness_RawWriteMaskedWritesUnderItsMask :
    (((idleWith ⟨0xE, 0, 0, 0⟩).agent me).addr.toNat = regOffset Config.defaultProfile .rstclk) ∧
    (((idleWith ⟨0xE, 0, 0, 0xC⟩).agent me).addr.toNat = regOffset Config.defaultProfile .intsts) ∧
    (∀ r, ((idleWith ⟨0xE, 0, 0, 0x18⟩).agent me).addr.toNat ≠ regOffset Config.defaultProfile r) :=
  ⟨by decide, by decide, fun r => by cases r <;> decide⟩

/-- The whole run between ACQ and REL, thirteen steps. -/
theorem witness_ToggleTraceHoldsInEveryUndisturbedRun :
    busy.WindowOk ∧
    (∃ g, lookupAgent busy.agents me = some g ∧ g.uprog = toggleResetProg ∧ g.upc = 1 ∧
      ((after 13 busy).agent me).cpc = g.cpc) ∧
    Reaches busy (after 13 busy) ∧
    (∃ h, (after 13 busy).history = busy.history ++ h ∧ ∀ e ∈ h, e.agent = me) ∧
    ((after 13 busy).agent me).uprog = toggleResetProg ∧ ((after 13 busy).agent me).upc = 14 :=
  ⟨busy_windowOk, ⟨_, rfl, rfl, rfl, rfl⟩, ⟨13, rfl⟩, ⟨(after 13 busy).history, rfl, by decide⟩,
    rfl, rfl⟩

/-- An event of the agent itself that is no BIND disturbs nothing. -/
theorem witness_undisturbing (ad : Addr) (v : Word) (l : List Addr) :
    (Event.wr me ad v).Undisturbing me l :=
  ⟨fun b _ _ h hb => by cases h; exact absurd rfl hb, fun b base h => by cases h⟩

/-- The whole run between ACQ and REL, fifty-two steps. -/
theorem witness_BringupEndStateHoldsInEveryUndisturbedRun :
    armed.WindowOk ∧
    (∃ g, lookupAgent armed.agents me = some g ∧ g.uprog = bringupProg armed.cfg ∧ g.upc = 1 ∧
      ((after 52 armed).agent me).cpc = g.cpc) ∧
    armed.cfg.extFixupAddr = some 0x50000000 ∧
    ¬ (armed.base.toNat ≤ 0x50000000 ∧ 0x50000000 < armed.base.toNat + armed.cfg.windowSize) ∧
    Reaches armed (after 52 armed) ∧
    (∃ h, (after 52 armed).history = armed.history ++ h ∧ ∀ e ∈ h, e.agent = me) ∧
    ((after 52 armed).agent me).uprog = bringupProg armed.cfg ∧
    ((after 52 armed).agent me).upc = 53 :=
  ⟨armed_windowOk, ⟨_, rfl, rfl, rfl, rfl⟩, rfl, by decide, ⟨52, rfl⟩,
    ⟨(after 52 armed).history, rfl, by decide +kernel⟩, rfl, rfl⟩

/-- The stores of RAW_WRITE_MASKED, TOGGLE_RESET and BRINGUP (the last to the fixup register), each in a
state where the register no longer holds what x[3] does. -/
theorem witness_MaskedWriteOverwritesWhatFellBetween :
    ((mid (idleWith ⟨0xE, 1, 1, 8⟩) rawWriteMaskedProg 1 ⟨0, 0, 0, 9⟩).enabled me = true ∧
      (mid (idleWith ⟨0xE, 1, 1, 8⟩) rawWriteMaskedProg 1 ⟨0, 0, 0, 9⟩).currentOp =
        some (.st .raw (maskedExpr .mask .data)) ∧
      (mid (idleWith ⟨0xE, 1, 1, 8⟩) rawWriteMaskedProg 1 ⟨0, 0, 0, 9⟩).target (testBase + 8) =
        some (.reg .lpclk)) ∧
    ((mid busy toggleResetProg 5 ⟨0, 0, 2, 9⟩).enabled me = true ∧
      (mid busy toggleResetProg 5 ⟨0, 0, 2, 9⟩).currentOp =
        some (.st (.reg .rstclk) (maskedExpr (.const rstMaskA) (.x .x2)))) ∧
    ((mid armed (bringupProg armed.cfg) 52 ⟨0, 0, 0, 9⟩).enabled me = true ∧
      (mid armed (bringupProg armed.cfg) 52 ⟨0, 0, 0, 9⟩).currentOp =
        some (.st .fixup (maskedExpr (.const extFixupMask) (.const 0))) ∧
      armed.target 0x50000000 = some .ext) := by decide

/-- The last store of BRINGUP is a micro-op of its program. -/
theorem witness_MaskedWriteOverwritesWhatFellBetween_programs :
    (program Config.defaultProfile .bringup)[52]? =
      some (.st .fixup (maskedExpr (.const extFixupMask) (.const 0))) := by decide

/-- The four stores whose word is written out, whatever x[3] holds. -/
theorem witness_MaskedWriteOverwritesWhatFellBetween_words (x : Word) (c : Command) :
    ∀ p ∈ [(setIspClockProg Config.defaultProfile, 1), (setResetProg, 1), (setResetProg, 3),
        (setAxiModeProg 31 true, 1)],
      (mid (idleWith c) p.1 p.2 ⟨0, 0, 0, x⟩).WindowOk ∧
      (mid (idleWith c) p.1 p.2 ⟨0, 0, 0, x⟩).enabled me = true ∧
      ((mid (idleWith c) p.1 p.2 ⟨0, 0, 0, x⟩).agent me).uprog = p.1 ∧
      ((mid (idleWith c) p.1 p.2 ⟨0, 0, 0, x⟩).agent me).upc = p.2 ∧
      ((mid (idleWith c) p.1 p.2 ⟨0, 0, 0, x⟩).agent me).tmp.x3 = x := by
  intro p hp
  refine ⟨ready_windowOk ⟨0, 0, 0, 0, 0⟩ 0 c, ?_, rfl, rfl, rfl⟩
  simp only [List.mem_cons, List.not_mem_nil, or_false] at hp
  rcases hp with rfl | rfl | rfl | rfl <;> rfl

theorem witness_GetResetReturnsWhatItsTwoReadsGave :
    (mid (idleWith (word 5)) getResetProg 2 ⟨1, 3, 0, 0⟩).enabled me = true ∧
    ((mid (idleWith (word 5)) getResetProg 2 ⟨1, 3, 0, 0⟩).agent me).uprog = getResetProg ∧
    ((mid (idleWith (word 5)) getResetProg 2 ⟨1, 3, 0, 0⟩).agent me).upc = 2 := by decide

/-- A store of a command, and a step of it that stores nothing. -/
theorem witness_StoresChangeOnlyTheStoredWord :
    ((mid busy toggleResetProg 5 ⟨0, 0, 0, 0⟩).OnCommand .toggleReset ∧
      (∃ e ad, (mid busy toggleResetProg 5 ⟨0, 0, 0, 0⟩).currentOp = some (.st (.reg .rstclk) e) ∧
        busy.placeAddr (busy.agent me) (.reg .rstclk) = some ad) ∧
      ∃ t, exec .toggleReset (mid busy toggleResetProg 5 ⟨0, 0, 0, 0⟩) = .next t) ∧
    (busy.OnCommand .toggleReset ∧ busy.currentOp = some (.ld .x0 (.reg .rstclk)) ∧
      ∃ t, exec .toggleReset busy = .next t) :=
  ⟨⟨.inr rfl, ⟨_, _, rfl, rfl⟩, _, rfl⟩, .inr rfl, rfl, _, rfl⟩

/-- Also for the statements about RDATA, the binding and the guard that have the same hypotheses. -/
theorem witness_CommandsWriteOnlyTheirRegisters :
    (idleWith ⟨0xE, 0, 0, 0x14⟩).WindowOk ∧
    (mid (idleWith ⟨0xE, 0, 0, 0x14⟩) rawWriteMaskedProg 1 ⟨0, 0, 0, 0⟩).OnCommand .rawWriteMasked ∧
    (idleWith ⟨0xE, 0, 0, 0x14⟩).inWindow (testBase + 0x14) = true ∧
    (∃ t, exec .rawWriteMasked (mid (idleWith ⟨0xE, 0, 0, 0x14⟩) rawWriteMaskedProg 1
      ⟨0, 0, 0, 0⟩) = .next t) ∧
    (armed.OnCommand .bringup ∧ armed.checkFixup = none ∧ ∃ t, exec .bringup armed = .next t) :=
  ⟨ready_windowOk _ _ _, .inr rfl, by decide, ⟨_, rfl⟩, .inr rfl, by decide, _, rfl⟩

theorem witness_OnlyReturnsWriteRdata :
    getter .getReset = true ∧ getter .toggleReset = false ∧ busy.OnCommand .toggleReset ∧
    (∀ e, busy.currentOp ≠ some (.ret e)) ∧ ∃ t, exec .toggleReset busy = .next t :=
  ⟨rfl, rfl, .inr rfl, fun e (h : some (MicroOp.ld .x0 (.reg .rstclk)) = some (.ret e)) => (by cases h),
    _, rfl⟩

theorem witness_OnlyBindWritesTheBinding :
    busy.OnCommand .toggleReset ∧ busy.bound = true ∧ (∃ t, exec .toggleReset busy = .next t) ∧
    ∃ t, step busy = .next t := ⟨.inr rfl, rfl, ⟨_, rfl⟩, _, rfl⟩

theorem witness_OnlyGuardedCommandsTouchTheGuard :
    guarded .bringup = true ∧ guarded .getReset = false ∧ (idleWith (word 5)).OnCommand .getReset ∧
    ∃ t, exec .getReset (idleWith (word 5)) = .next t := ⟨rfl, rfl, .inl rfl, _, rfl⟩

theorem witness_StepsLeaveOtherAgentsAlone :
    (∃ t, exec .toggleReset busy = .next t) ∧
    ∃ t, step { trio (word 5) with turns := [other] } = .next t := ⟨⟨_, rfl⟩, _, rfl⟩

/-- A read and a store. -/
theorem witness_EachAccessIsRecordedOnce :
    (busy.enabled me = true ∧ (busy.agent me).uprog ≠ [] ∧
      busy.currentOp = some (.ld .x0 (.reg .rstclk)) ∧ ∃ t, exec .toggleReset busy = .next t) ∧
    ((mid busy toggleResetProg 5 ⟨0, 0, 0, 0⟩).enabled me = true ∧
      (∃ e, (mid busy toggleResetProg 5 ⟨0, 0, 0, 0⟩).currentOp = some (.st (.reg .rstclk) e)) ∧
      ∃ t, exec .toggleReset (mid busy toggleResetProg 5 ⟨0, 0, 0, 0⟩) = .next t) :=
  ⟨⟨by decide, by decide, by decide, _, rfl⟩, by decide, ⟨_, rfl⟩, _, rfl⟩

/-- A step that reads word A, one that writes it, and one that does neither. -/
theorem witness_StoredRegistersChangeOnlyByRecordedWrites :
    busy.WindowOk ∧
    (∃ t a v, step busy = .next t ∧
      t.history = busy.history ++ [.rd a (busy.regAddr .rstclk) v]) ∧
    (∃ t a v, step (mid busy toggleResetProg 5 ⟨0, 0, 0, 0⟩) = .next t ∧
      t.history = busy.history ++ [.wr a (busy.regAddr .rstclk) v]) ∧
    ∃ t, step (mid busy toggleResetProg 8 ⟨0, 0, 0, 0⟩) = .next t ∧
      t.history = busy.history ++ [.wait me 20] :=
  ⟨busy_windowOk, ⟨_, _, _, rfl, rfl⟩, ⟨_, _, _, rfl, rfl⟩, _, rfl, rfl⟩

theorem witness_StatusAndUnmodelledWordsHoldNoState :
    busy.WindowOk ∧ 0xFC % 4 = 0 ∧ 0xFC < busy.cfg.windowSize ∧
    ∀ r, 0xFC ≠ regOffset busy.cfg r :=
  ⟨busy_windowOk, by decide, by decide, fun r => by cases r <;> decide⟩

theorem witness_FixupRegisterIsStorage :
    configOk armed.cfg = true ∧ armed.cfg.extFixupAddr = some 0x50000000 ∧
    ¬ (armed.base.toNat ≤ 0x50000000 ∧ 0x50000000 < armed.base.toNat + armed.cfg.windowSize) := by
  decide

theorem witness_ByteViewIsLittleEndian :
    busy.WindowOk ∧ Reg.axisw ≠ .intsts ∧ 3 < 4 := ⟨busy_windowOk, by decide, by decide⟩

theorem witness_OutputsFollowTheRegisters :
    busy.cfg.intMaskPolarity = .enableHigh ∧
    ({ busy with cfg := { busy.cfg with intMaskPolarity := .maskHigh } }).cfg.intMaskPolarity =
      .maskHigh := by decide

/-- A power-on state of the default profile whose agent will bind the window and toggle a line. -/
def powered : State :=
  { State.reset with agents := [(me, { Agent.reset with
      prog := [⟨0, 0, 0, testBase⟩, ⟨7, 0, 2, 0⟩] })] }

theorem witness_PowerOnMeetsTheInvariant : powered.PowerOn :=
  ⟨rfl, rfl, rfl, rfl, fun p hp => by
    obtain rfl := List.mem_singleton.mp hp; exact ⟨rfl, rfl, rfl, rfl⟩⟩

/-- Four steps: BIND's two, the issue of TOGGLE_RESET, and its ACQ. -/
theorem witness_GuardedSectionsExcludeEachOther :
    powered.PowerOn ∧ Reaches powered (after 4 powered) ∧
    (after 4 powered).history = [.bind me testBase, .acq me] :=
  ⟨witness_PowerOnMeetsTheInvariant, ⟨4, rfl⟩, rfl⟩

/-- An idle agent without a program, not stopped or stopped, meets the invariant and does not move. -/
theorem halted_inv (f : Option FaultCode) :
    { State.reset with agents := [(me, { Agent.reset with fault := f })] }.Inv where
  keys := rfl
  binding := fun h => by cases h
  index := by
    intro a g hl
    obtain ⟨rfl, rfl⟩ := lookup_one hl
    exact Nat.le_refl 0
  running := by
    intro a g hl hne
    obtain ⟨rfl, rfl⟩ := lookup_one hl
    exact absurd rfl hne
  holder := fun a ha => by cases ha

/-- No agent moves: once in a final state, once with a faulted agent. -/
theorem witness_RunsNeverGetStuck :
    State.reset.cfg.agents.Nodup ∧
    ({ State.reset with agents := [(me, { Agent.reset with fault := none })] }.Inv ∧
      { State.reset with agents := [(me, { Agent.reset with fault := none })] }.mover = none ∧
      { State.reset with agents := [(me, { Agent.reset with fault := none })] }.final = true) ∧
    { State.reset with agents := [(me, { Agent.reset with fault := some .unbound })] }.Inv ∧
    { State.reset with agents := [(me, { Agent.reset with fault := some .unbound })] }.mover = none ∧
    { State.reset with agents := [(me, { Agent.reset with fault := some .unbound })] }.final = false :=
  ⟨by decide, ⟨halted_inv none, rfl, by decide⟩, halted_inv _, rfl, by decide⟩

/-- For StepKeepsTheInvariant, AdmittedCommandsNeverFault and GuardHolderIsAlwaysEnabled. -/
theorem witness_StepKeepsTheInvariant :
    busy.Inv ∧ (∃ t, step busy = .next t) ∧ (busy.agent me).uprog ≠ [] ∧ busy.guard = .held me :=
  ⟨busy_inv, ⟨_, rfl⟩, by decide, rfl⟩

theorem witness_StepKeepsTheGuardLaw :
    Guard.free.replay { busy with history := [.acq me] }.history = some busy.guard ∧
    ∃ t, step { busy with history := [.acq me] } = .next t := ⟨by decide, _, rfl⟩

theorem witness_AtMostOneAgentIsInsideTheSequencer :
    busy.Inv ∧ (busy.agent me).seqState ∉ [SeqState.idle, .tAcq, .bAcq] := ⟨busy_inv, by decide⟩

/-- The two ends of every range. -/
theorem witness_SequencerStatesFollowTheMicroOps :
    decode (busy.agent me).cmd = .op .toggleReset ∧ decode (armed.agent me).cmd = .op .bringup ∧
    [0, 1, 3, 4, 7, 8, 9, 13, 14].map toggleSeqState =
      [.tAcq, .tRead, .tRead, .tAssert, .tAssert, .tWait, .tDeassert, .tDeassert, .tRel] ∧
    [0, 1, 8, 9, 12, 13, 24, 25, 36, 37, 48, 49, 50, 51, 52, 53].map bringupSeqState =
      [.bAcq, .b1AssertAll, .b1AssertAll, .b2ClkPulse, .b2ClkPulse, .b3Axi, .b3Axi, .b4IspTop,
        .b4IspTop, .b5CsiMac, .b5CsiMac, .b6ClkAll, .b6ClkAll, .b7Fixup, .b7Fixup, .bRel] := by decide

theorem witness_FinalStateEndsTheRun :
    (configOk State.reset.cfg = true ∧ agentSetOk State.reset.cfg = true ∧
      State.reset.final = true) ∧
    ∃ a g, (a, g) ∈ ((fresh (word 5)).raiseFault me .unbound).agents ∧ g.stopped = true :=
  ⟨by decide, me, _, List.mem_singleton.mpr rfl, rfl⟩

end Sys2Proof.Tests
end

section
/-! PROOFS of the family 00_scope: what each constraint of R7 gives of an accepted configuration, and
the refusal of a configuration that breaks one. -/

namespace Sys2Proof.Machine

/-- What R7 (2) gives. -/
theorem windowSize_of_configOk {c : Config} (h : configOk c = true) :
    0 < c.windowSize ∧ c.windowSize % 4 = 0 ∧ c.windowSize ≤ 2 ^ 64 := by
  simp only [configOk, Bool.and_eq_true] at h
  obtain ⟨⟨⟨⟨⟨-, hwindow⟩, -⟩, -⟩, -⟩, -⟩ := h
  exact of_decide_eq_true hwindow

/-- What R7 (3) gives, about the bits themselves. -/
theorem rstBits_of_configOk {c : Config} (h : configOk c = true) :
    [c.rstAxiBit, c.rstIspTopBit, c.rstCsi0Bit, c.rstCsi1Bit].Nodup ∧
      ∀ b ∈ [c.rstAxiBit, c.rstIspTopBit, c.rstCsi0Bit, c.rstCsi1Bit], b < 16 := by
  simpa only [rstBitsOk, Bool.and_eq_true, List.all_eq_true, decide_eq_true_eq] using
    rstBitsOk_of_configOk h

/-- What R7 (4) gives, about the bits themselves. -/
theorem clkBits_of_configOk {c : Config} (h : configOk c = true) :
    [c.clkIspTopBit, c.clkAxiBit, c.clkCsi0Bit, c.clkCsi1Bit].Nodup ∧
      ∀ b ∈ [c.clkIspTopBit, c.clkAxiBit, c.clkCsi0Bit, c.clkCsi1Bit], 16 ≤ b ∧ b < 32 := by
  simpa only [clkBitsOk, Bool.and_eq_true, List.all_eq_true, decide_eq_true_eq] using
    clkBitsOk_of_configOk h

/-- What R7 (5) gives. -/
theorem busCount_of_configOk {c : Config} (h : configOk c = true) :
    1 ≤ c.nAxiBus ∧ c.nAxiBus ≤ 32 := by
  simp only [configOk, Bool.and_eq_true] at h
  obtain ⟨⟨-, hbus⟩, -⟩ := h
  exact of_decide_eq_true hbus

/-- What R7 (6) gives. -/
theorem fixupAddr_of_configOk {c : Config} (h : configOk c = true) {e : Nat}
    (he : c.extFixupAddr = some e) : e % 4 = 0 ∧ e < 2 ^ 64 := by
  simp only [configOk, Bool.and_eq_true] at h
  obtain ⟨-, hfixup⟩ := h
  simpa only [fixupAddrOk, he, decide_eq_true_eq] using hfixup

/-- R201: the configuration is checked before any agent steps. -/
theorem step_of_not_configOk {s : State} (h : ¬ configOk s.cfg = true) :
    step s = .refused .badConfig := if_neg h

/-- Settles O5: each disjunct contradicts what an accepted configuration keeps of that constraint. -/
theorem brokenConfigurationIsRefused : Obligations.BrokenConfigurationIsRefused := by
  intro s hbroken
  refine step_of_not_configOk fun hok => ?_
  obtain ⟨hoffNodup, hoff⟩ := offsets_of_configOk hok
  obtain ⟨hwinPos, hwinMul, hwinLe⟩ := windowSize_of_configOk hok
  obtain ⟨hrstNodup, hrst⟩ := rstBits_of_configOk hok
  obtain ⟨hclkNodup, hclk⟩ := clkBits_of_configOk hok
  obtain ⟨hbusPos, hbusLe⟩ := busCount_of_configOk hok
  rcases hbroken with h | ⟨o, ho, h⟩ | h | h | h | h | ⟨b, hb, h⟩ | h | ⟨b, hb, h⟩ | h | h |
    ⟨e, he, h⟩
  · exact h hoffNodup
  · have := hoff o ho
    omega
  · omega
  · exact h hwinMul
  · omega
  · exact h hrstNodup
  · have := hrst b hb
    omega
  · exact h hclkNodup
  · have := hclk b hb
    omega
  · omega
  · omega
  · have := fixupAddr_of_configOk hok he
    omega

end Sys2Proof.Machine
end

section
/-! PROOFS of the family 10_state: a step of the machine is a step of one agent, which has an enabled
step, so that a stopped agent takes none (R37). -/

namespace Sys2Proof.Machine

/-! ## A step of one agent -/

/-- The state `t` follows `s` by a step of the agent `a`: the records of the other agents stay, and at
most one event is recorded, an event of `a`. -/
structure State.StepOf (s : State) (a : AgentId) (t : State) : Prop where
  agent_other : ∀ b, b ≠ a → t.agent b = s.agent b
  history_append : t.history = s.history ∨ ∃ e, t.history = s.history ++ [e] ∧ e.agent = a

section
variable {a : AgentId} {s t u : State}

theorem State.StepOf.refl (a : AgentId) (s : State) : s.StepOf a s := ⟨fun _ _ => rfl, .inl rfl⟩

/-- A change of `a`'s own record, over a change of what is no agent's, is a step of `a`. -/
theorem State.stepOf_modAgent (f : Agent → Agent) (hagents : u.agents = s.agents)
    (hhist : u.history = s.history) : s.StepOf a (u.modAgent a f) where
  agent_other b hb := by
    rw [State.agent_modAgent_other u a b f hb, State.agent, State.agent, hagents]
  history_append := .inl hhist

/-- The same with an event of `a` recorded. -/
theorem State.stepOf_modAgent_record (f : Agent → Agent) {e : Event} (he : e.agent = a)
    (hagents : u.agents = s.agents) (hhist : u.history = s.history) :
    s.StepOf a ((u.modAgent a f).record e) where
  agent_other := (State.stepOf_modAgent f hagents hhist).agent_other
  history_append := .inr ⟨e, congrArg (· ++ [e]) hhist, he⟩

/-- A change of `a`'s record that records nothing may come before a step of `a`. -/
theorem State.StepOf.of_frame (h : u.StepOf a t) (hagent : ∀ b, b ≠ a → u.agent b = s.agent b)
    (hhist : u.history = s.history) : s.StepOf a t where
  agent_other b hb := (h.agent_other b hb).trans (hagent b hb)
  history_append := hhist ▸ h.history_append

/-- A step of `a` keeps the whole record of another agent and records no event of it. -/
theorem State.StepOf.keeps_other (h : s.StepOf a t) {b : AgentId} (hb : b ≠ a) :
    t.agent b = s.agent b ∧ ∀ l, t.history = s.history ++ l → ∀ e ∈ l, e.agent ≠ b := by
  refine ⟨h.agent_other b hb, fun l hl e he => ?_⟩
  rcases h.history_append with hnone | ⟨e', hone, howner⟩
  · obtain rfl : l = [] := List.self_eq_append_right.mp (hnone.symm.trans hl)
    exact absurd he List.not_mem_nil
  · obtain rfl : [e'] = l := List.append_cancel_left (hone.symm.trans hl)
    obtain rfl := List.mem_singleton.mp he
    exact fun heb => hb (heb.symm.trans howner)

/-! ## The bus accesses -/

/-- A read leaves the agents and the history. -/
theorem State.memRead_frame {ad : Addr} {v : Word} (h : s.memRead ad = some (v, t)) :
    t.agents = s.agents ∧ t.history = s.history := by
  rcases State.memRead_cases h with rfl | ⟨-, rfl⟩ <;> exact ⟨rfl, rfl⟩

/-- A write leaves the agents and the history. -/
theorem State.memWrite_frame {ad : Addr} {v : Word} (h : s.memWrite ad v = some t) :
    t.agents = s.agents ∧ t.history = s.history := by
  rcases State.memWrite_cases h with ⟨r, -, rfl⟩ | ⟨-, rfl⟩ | ⟨-, rfl⟩
  · exact ⟨State.writeReg_agents s r v, State.writeReg_history s r v⟩
  · exact ⟨rfl, rfl⟩
  · exact ⟨rfl, rfl⟩

/-! ## The parts of a step -/

/-- Each micro-op is a step of the agent that runs it (R100). -/
theorem runOp_stepOf {op : MicroOp} (h : runOp s a op = .next t) : s.StepOf a t := by
  cases op with
  | ld i p =>
    rcases runLd_cases s a i p with hfault | ⟨ad, v, u, -, hread, hnext⟩
    · exact nomatch hfault.symm.trans h
    · obtain rfl := Host.Outcome.next.inj (hnext.symm.trans h)
      obtain ⟨hagents, hhist⟩ := State.memRead_frame hread
      exact State.stepOf_modAgent_record _ rfl hagents hhist
  | st p e =>
    rcases runSt_cases s a p e with hfault | ⟨ad, u, -, hwrite, hnext⟩
    · exact nomatch hfault.symm.trans h
    · obtain rfl := Host.Outcome.next.inj (hnext.symm.trans h)
      obtain ⟨hagents, hhist⟩ := State.memWrite_frame hwrite
      exact State.stepOf_modAgent_record _ rfl hagents hhist
  | set i e =>
    obtain rfl := Host.Outcome.next.inj h
    exact State.stepOf_modAgent _ rfl rfl
  | ret e | bindop | acq | rel | wait us =>
    obtain rfl := Host.Outcome.next.inj h
    exact State.stepOf_modAgent_record _ rfl rfl rfl

/-- Parts 3 and 4 of the issue step (R103): a fault of the agent, or its micro-program set up. -/
theorem issue_stepOf (s : State) (a : AgentId) (check : Option FaultCode) (prog : List MicroOp) :
    s.StepOf a (issue s a check prog) := by
  unfold issue
  cases check with
  | none => exact State.stepOf_modAgent _ rfl rfl
  | some code => exact State.stepOf_modAgent_record _ rfl rfl rfl

theorem State.refuse_stepOf (s : State) (a : AgentId) (r : RefuseReason) :
    s.StepOf a (s.refuse a r) := State.stepOf_modAgent_record _ rfl rfl rfl

/-- A step of a command is a step of the agent whose turn it is. -/
theorem exec_stepOf {i : Instr} (h : exec i s = .next t) : s.StepOf s.turn t := by
  rcases exec_cases i s with ⟨-, hexec⟩ | ⟨-, hexec⟩ | ⟨op, -, -, -, hexec⟩ <;> rw [hexec] at h
  · obtain rfl := Host.Outcome.next.inj h
    exact State.StepOf.refl _ _
  · obtain rfl := Host.Outcome.next.inj h
    exact issue_stepOf s _ _ _
  · exact runOp_stepOf h

/-! ## The beginning of a step -/

@[simp] theorem State.sampleInput_agents (s : State) : s.sampleInput.agents = s.agents := by
  unfold State.sampleInput
  split <;> rfl

@[simp] theorem State.sampleInput_history (s : State) : s.sampleInput.history = s.history := by
  unfold State.sampleInput
  split <;> rfl

@[simp] theorem State.begin_turn (s : State) (a : AgentId) (rest : List AgentId) :
    (s.begin a rest).turn = a := by
  unfold State.begin
  split <;> rfl

@[simp] theorem State.begin_history (s : State) (a : AgentId) (rest : List AgentId) :
    (s.begin a rest).history = s.history := by
  unfold State.begin
  split <;> exact s.sampleInput_history

/-- Loading the latches of the moving agent (R103 part 1) leaves the other agents. -/
theorem State.begin_agent_other (s : State) (rest : List AgentId) {b : AgentId} (hb : b ≠ a) :
    (s.begin a rest).agent b = s.agent b := by
  unfold State.begin
  split
  · rw [State.agent_modAgent_other _ a b _ hb, State.agent, State.agent, State.sampleInput_agents]
  · rw [State.agent, State.agent, State.sampleInput_agents]

/-! ## Who moves -/

/-- The agent that moves has an enabled step (R71 (b)). -/
theorem State.enabled_of_mover {rest : List AgentId} (h : s.mover = some (a, rest)) :
    s.enabled a = true := by
  have hof : ∀ b ∈ s.enabledAgents, s.enabled b = true := fun b hb => (List.mem_filter.mp hb).2
  unfold State.mover at h
  split at h
  next b l hturns =>
    obtain ⟨rfl, -⟩ := Prod.mk.inj (Option.some.inj h)
    have := List.head?_dropWhile_not (fun a => !s.enabled a) s.turns
    simpa [hturns] using this
  next =>
    split at h
    next => exact nomatch h
    next b hone =>
      obtain ⟨rfl, -⟩ := Prod.mk.inj (Option.some.inj h)
      exact hof b (hone ▸ List.mem_singleton_self b)
    next b c l hmany =>
      obtain ⟨rfl, -⟩ := Prod.mk.inj (Option.some.inj h)
      have hlt : Config.freeTurn s.tick % (l.length + 2) < (b :: c :: l).length :=
        Nat.mod_lt _ (Nat.succ_pos _)
      rw [List.getD_eq_getElem _ _ hlt]
      exact hof _ (by rw [hmany]; exact List.getElem_mem hlt)

/-- A stopped agent has no enabled step (R200). -/
theorem State.enabled_of_stopped (h : (s.agent a).stopped = true) : s.enabled a = false := by
  cases he : s.enabled a with
  | false => rfl
  | true =>
    rw [State.enabled_eq (State.lookup_of_enabled he), h] at he
    exact nomatch he

/-- A step of the machine is a step of the agent that moves. -/
theorem step_stepOf (h : step s = .next t) :
    ∃ a rest, s.mover = some (a, rest) ∧ s.StepOf a t := by
  unfold step at h
  split_ifs at h with hcfg hset
  cases hmover : s.mover with
  | none => simp [hmover] at h
  | some p =>
    obtain ⟨a, rest⟩ := p
    refine ⟨a, rest, rfl, State.StepOf.of_frame (u := s.begin a rest) ?_
      (fun b hb => s.begin_agent_other rest hb) (s.begin_history a rest)⟩
    simp only [hmover] at h
    split at h
    next i _ => simpa only [State.begin_turn] using exec_stepOf h
    next r _ =>
      obtain rfl := Host.Outcome.next.inj h
      exact State.refuse_stepOf _ a r

end

/-! ## Power-on -/

theorem lookupAgent_mem {l : List (AgentId × Agent)} {a : AgentId} {g : Agent}
    (h : lookupAgent l a = some g) : (a, g) ∈ l := by
  induction l with
  | nil => exact nomatch h
  | cons p l ih =>
    obtain ⟨b, g'⟩ := p
    unfold lookupAgent at h
    split_ifs at h with hab
    · subst hab
      obtain rfl := Option.some.inj h
      exact List.mem_cons_self
    · exact List.mem_cons_of_mem _ (ih h)

/-- In a power-on state every record is a power-on record, that of no agent too. -/
theorem State.PowerOn.agent {s : State} (h : s.PowerOn) (a : AgentId) : (s.agent a).PowerOn := by
  obtain ⟨-, -, -, -, hall⟩ := h
  unfold State.agent
  cases hl : lookupAgent s.agents a with
  | none => exact ⟨rfl, rfl, rfl, rfl⟩
  | some g => exact hall _ (lookupAgent_mem hl)

/-- Settles O16: the agent that moves has an enabled step and a stopped agent has none, so the step is
another agent's. -/
theorem stoppedAgentsStayStopped : Obligations.StoppedAgentsStayStopped := by
  constructor
  · intro s hs a
    obtain ⟨-, -, hfault, hrefused⟩ := hs.agent a
    exact ⟨hfault, hrefused⟩
  · intro s t a hstep hstopped
    obtain ⟨m, rest, hmover, hm⟩ := step_stepOf hstep
    refine hm.keeps_other ?_
    rintro rfl
    simpa [State.enabled_of_stopped hstopped] using State.enabled_of_mover hmover

end Sys2Proof.Machine
end

section
/-! PROOFS of the family 20_memory: what a step of the machine does to the stored registers, in terms of
the one event it records, and R65 from it. -/

namespace Sys2Proof.Machine

/-! ## The registers in a step of the machine -/

/-- What a step can do to the stored registers: nothing, with no bus access recorded; one recorded read;
or one recorded write. -/
inductive State.RegStep (s t : State) : Prop where
  | quiet (l : List Event) (hist : t.history = s.history ++ l)
      (noAccess : ∀ a ad v, l ≠ [.rd a ad v] ∧ l ≠ [.wr a ad v]) (csr : t.csr = s.csr)
  | read (a : AgentId) (ad : Addr) (v : Word) (u : State) (mem : s.memRead ad = some (v, u))
      (hist : t.history = s.history ++ [.rd a ad v]) (csr : t.csr = s.csr)
  | write (a : AgentId) (ad : Addr) (v : Word) (u : State) (mem : s.memWrite ad v = some u)
      (hist : t.history = s.history ++ [.wr a ad v]) (csr : t.csr = u.csr)

section
variable {a : AgentId} {s t u : State} {r : Reg}

/-- A change that records nothing and leaves the registers. -/
theorem State.RegStep.of_no_event (hist : t.history = s.history) (csr : t.csr = s.csr) :
    s.RegStep t :=
  .quiet [] (by simpa using hist) (fun _ _ _ => ⟨nofun, nofun⟩) csr

/-- A read leaves the stored registers. -/
theorem State.memRead_csr {ad : Addr} {v : Word} (h : s.memRead ad = some (v, t)) :
    t.csr = s.csr := by
  rcases State.memRead_cases h with rfl | ⟨-, rfl⟩ <;> rfl

/-- The registers' part of each micro-op (R100). -/
theorem runOp_regStep {op : MicroOp} (h : runOp s a op = .next t) : s.RegStep t := by
  cases op with
  | ld i p =>
    rcases runLd_cases s a i p with hfault | ⟨ad, v, u, -, hread, hnext⟩
    · exact nomatch hfault.symm.trans h
    · obtain rfl := Host.Outcome.next.inj (hnext.symm.trans h)
      have hhist := (State.memRead_frame hread).2
      have hcsr := State.memRead_csr hread
      exact .read a ad v u hread (congrArg (· ++ [_]) hhist) hcsr
  | st p e =>
    rcases runSt_cases s a p e with hfault | ⟨ad, u, -, hwrite, hnext⟩
    · exact nomatch hfault.symm.trans h
    · obtain rfl := Host.Outcome.next.inj (hnext.symm.trans h)
      have hhist := (State.memWrite_frame hwrite).2
      exact .write a ad _ u hwrite (congrArg (· ++ [_]) hhist) rfl
  | set i e =>
    obtain rfl := Host.Outcome.next.inj h
    exact .of_no_event rfl rfl
  | ret e | bindop | acq | rel | wait us =>
    obtain rfl := Host.Outcome.next.inj h
    exact .quiet [_] rfl (fun _ _ _ => ⟨nofun, nofun⟩) rfl

/-- The issue step makes no bus access (R103). -/
theorem issue_regStep (s : State) (a : AgentId) (check : Option FaultCode) (prog : List MicroOp) :
    s.RegStep (issue s a check prog) := by
  cases check with
  | none => exact .of_no_event rfl rfl
  | some code => exact .quiet [.fault a code] rfl (fun _ _ _ => ⟨nofun, nofun⟩) rfl

theorem State.refuse_regStep (s : State) (a : AgentId) (reason : RefuseReason) :
    s.RegStep (s.refuse a reason) :=
  .quiet [.refuse a reason] rfl (fun _ _ _ => ⟨nofun, nofun⟩) rfl

theorem exec_regStep {i : Instr} (h : exec i s = .next t) : s.RegStep t := by
  rcases exec_cases i s with ⟨-, hexec⟩ | ⟨-, hexec⟩ | ⟨op, -, -, -, hexec⟩ <;> rw [hexec] at h
  · obtain rfl := Host.Outcome.next.inj h
    exact .of_no_event rfl rfl
  · obtain rfl := Host.Outcome.next.inj h
    exact issue_regStep s _ _ _
  · exact runOp_regStep h

/-- What a step of the machine is, once the moving agent's turn has begun: a step of the decoded command,
or the refusal of a word that decodes to none (R103). -/
theorem step_cases (h : step s = .next t) :
    ∃ a rest, s.mover = some (a, rest) ∧
      ((∃ i, decode ((s.begin a rest).agent a).cmd = .op i ∧ exec i (s.begin a rest) = .next t) ∨
        ∃ reason, decode ((s.begin a rest).agent a).cmd = .refused reason ∧
          t = (s.begin a rest).refuse a reason) := by
  unfold step at h
  split_ifs at h with hcfg hset
  split at h
  next => exact nomatch h
  next a rest hmover =>
    refine ⟨a, rest, hmover, ?_⟩
    split at h
    next i hword => exact .inl ⟨i, hword, h⟩
    next reason hword => exact .inr ⟨reason, hword, (Host.Outcome.next.inj h).symm⟩

/-- A step of the machine acts on the registers as the begun state stores them. -/
theorem step_regStep (h : step s = .next t) : ∃ a rest, (s.begin a rest).RegStep t := by
  obtain ⟨a, rest, -, ⟨i, -, hexec⟩ | ⟨reason, -, rfl⟩⟩ := step_cases h
  · exact ⟨a, rest, exec_regStep hexec⟩
  · exact ⟨a, rest, State.refuse_regStep _ a reason⟩

/-! ## The beginning of a step leaves the window -/

@[simp] theorem State.sampleInput_cfg (s : State) : s.sampleInput.cfg = s.cfg := by
  unfold State.sampleInput
  split <;> rfl

@[simp] theorem State.sampleInput_bound (s : State) : s.sampleInput.bound = s.bound := by
  unfold State.sampleInput
  split <;> rfl

@[simp] theorem State.sampleInput_base (s : State) : s.sampleInput.base = s.base := by
  unfold State.sampleInput
  split <;> rfl

@[simp] theorem State.sampleInput_csr (s : State) : s.sampleInput.csr = s.csr := by
  unfold State.sampleInput
  split <;> rfl

@[simp] theorem State.begin_cfg (s : State) (a : AgentId) (rest : List AgentId) :
    (s.begin a rest).cfg = s.cfg := by
  unfold State.begin
  split <;> exact s.sampleInput_cfg

@[simp] theorem State.begin_bound (s : State) (a : AgentId) (rest : List AgentId) :
    (s.begin a rest).bound = s.bound := by
  unfold State.begin
  split <;> exact s.sampleInput_bound

@[simp] theorem State.begin_base (s : State) (a : AgentId) (rest : List AgentId) :
    (s.begin a rest).base = s.base := by
  unfold State.begin
  split <;> exact s.sampleInput_base

@[simp] theorem State.begin_csr (s : State) (a : AgentId) (rest : List AgentId) :
    (s.begin a rest).csr = s.csr := by
  unfold State.begin
  split <;> exact s.sampleInput_csr

@[simp] theorem State.begin_regAddr (s : State) (a : AgentId) (rest : List AgentId) (r : Reg) :
    (s.begin a rest).regAddr r = s.regAddr r := by
  simp [State.regAddr]

theorem State.WindowOk.begin (h : s.WindowOk) (a : AgentId) (rest : List AgentId) :
    (s.begin a rest).WindowOk := by
  simpa [State.WindowOk, State.BaseOk] using h

/-! ## The registers in terms of the recorded event -/

/-- Every register but INTSTS is read from storage. -/
theorem State.readReg_eq_of_csr_eq (hr : r ≠ .intsts) (h : t.csr = s.csr) :
    t.readReg r = s.readReg r := by
  cases r with
  | intsts => exact absurd rfl hr
  | rstclk | blken | lpclk | intmsk | axisw => simp [State.readReg, h]

/-- A write to an address that is not the register's leaves the register. -/
theorem State.readReg_memWrite_other {ad : Addr} {v : Word} (hr : r ≠ .intsts)
    (h : s.memWrite ad v = some u) (had : ad ≠ s.regAddr r) : u.readReg r = s.readReg r := by
  rcases State.memWrite_cases h with ⟨q, htarget, rfl⟩ | ⟨-, rfl⟩ | ⟨-, rfl⟩
  · refine State.readReg_writeReg_other s q r v ?_
    rintro rfl
    exact had (State.regAddr_of_target htarget)
  · rfl
  · exact State.readReg_eq_of_csr_eq hr rfl

/-- A recorded read of a register has the value the register held (R65). -/
theorem State.RegStep.read_value (h : s.RegStep t) (hw : s.WindowOk) {v : Word}
    (hist : t.history = s.history ++ [.rd a (s.regAddr r) v]) : v = s.readReg r := by
  cases h with
  | quiet l hl noAccess =>
    exact absurd (List.append_cancel_left (hl.symm.trans hist)) (noAccess _ _ _).1
  | read b ad w u mem hl =>
    cases List.append_cancel_left (hl.symm.trans hist)
    rw [State.memRead_reg hw] at mem
    exact (Prod.mk.inj (Option.some.inj mem)).1.symm
  | write b ad w u _ hl =>
    exact nomatch List.append_cancel_left (hl.symm.trans hist)

/-- A recorded write of a storage register leaves the value written (R65). -/
theorem State.RegStep.written_value (h : s.RegStep t) (hw : s.WindowOk) (hr : r ≠ .intsts) {v : Word}
    (hist : t.history = s.history ++ [.wr a (s.regAddr r) v]) : t.readReg r = v := by
  cases h with
  | quiet l hl noAccess =>
    exact absurd (List.append_cancel_left (hl.symm.trans hist)) (noAccess _ _ _).2
  | read b ad w u _ hl =>
    exact nomatch List.append_cancel_left (hl.symm.trans hist)
  | write b ad w u mem hl csr =>
    cases List.append_cancel_left (hl.symm.trans hist)
    rw [State.memWrite_reg hw] at mem
    obtain rfl := Option.some.inj mem
    exact (State.readReg_eq_of_csr_eq hr csr).trans (State.readReg_writeReg_self s r v hr)

/-- Without a recorded write to it a storage register stays (R65). -/
theorem State.RegStep.unwritten_value (h : s.RegStep t) (hr : r ≠ .intsts)
    (hist : ∀ a v, t.history ≠ s.history ++ [.wr a (s.regAddr r) v]) :
    t.readReg r = s.readReg r := by
  cases h with
  | quiet l hl _ csr => exact State.readReg_eq_of_csr_eq hr csr
  | read b ad w u _ _ csr => exact State.readReg_eq_of_csr_eq hr csr
  | write b ad w u mem hl csr =>
    have had : ad ≠ s.regAddr r := by
      rintro rfl
      exact hist b w hl
    exact (State.readReg_eq_of_csr_eq hr csr).trans (State.readReg_memWrite_other hr mem had)

end

/-- Settles O45: the step is a register step of the begun state, which has the window, the stored
registers and the history of the state before. -/
theorem storedRegistersChangeOnlyByRecordedWrites :
    Obligations.StoredRegistersChangeOnlyByRecordedWrites := by
  intro s t r hw hr hstep
  obtain ⟨a, rest, hreg⟩ := step_regStep hstep
  have hbegun := hw.begin a rest
  have hread : (s.begin a rest).readReg r = s.readReg r :=
    State.readReg_eq_of_csr_eq hr (s.begin_csr a rest)
  rw [← hread, ← s.begin_history a rest, ← s.begin_regAddr a rest r]
  exact ⟨fun _ _ => hreg.read_value hbegun, fun _ _ => hreg.written_value hbegun hr,
    hreg.unwritten_value hr⟩

end Sys2Proof.Machine
end

section
/-! PROOFS of the family 30_encoding: what the decoder answers for every word and the issue step of a
word that spells no operation (R90, R91), the clock codec bit by bit (R81), and the reset codec by its
two masks (R82, R83). -/

namespace Sys2Proof

/-! ## The decoder -/

/-- The opcode map gives every value but 0xF an operation (R88). -/
theorem exists_opcodeMap_eq_some {opc : BitVec 4} (h : opc ≠ 0xF) (bus : BitVec 5) (off : Bool) :
    ∃ i, opcodeMap opc bus off = some i := by
  have hlt : opc.toNat < 15 := by bv_omega
  unfold opcodeMap
  interval_cases opc.toNat <;> exact ⟨_, rfl⟩

/-- RSV_OPCODE comes before RSV_FIELD (R90). -/
theorem decode_of_opcField_eq {w : Word} (h : opcField w = 0xF) :
    decode w = .refused .rsvOpcode := by
  unfold decode
  rw [h]
  rfl

/-- A nonzero reserved field, or operand bits outside SET_AXI_MODE, are RSV_FIELD (R91). -/
theorem decode_of_nonzero_field {w : Word} (hopc : opcField w ≠ 0xF)
    (h : reservedField w ≠ 0 ∨ (operandField w ≠ 0 ∧ opcField w ≠ 0xC)) :
    decode w = .refused .rsvField := by
  obtain ⟨i, hi⟩ := exists_opcodeMap_eq_some hopc (busField w) (offField w)
  simp only [decode, hi]
  rcases h with hres | hoperand
  · rw [if_pos hres]
  · rw [if_pos hoperand.symm, ite_self]

/-- Every other word spells an operation (R91). -/
theorem exists_decode_eq_op {w : Word} (hopc : opcField w ≠ 0xF) (hres : reservedField w = 0)
    (h : operandField w = 0 ∨ opcField w = 0xC) : ∃ i, decode w = .op i := by
  obtain ⟨i, hi⟩ := exists_opcodeMap_eq_some hopc (busField w) (offField w)
  refine ⟨i, ?_⟩
  simp only [decode, hi]
  rw [if_neg (not_not.mpr hres), if_neg (by tauto)]

end Sys2Proof

namespace Sys2Proof.Machine

/-! ## The issue step -/

section
variable {s : State} {a : AgentId} {rest : List AgentId}

/-- The step of an agent whose word decodes to an operation is that operation's (R103). -/
theorem step_eq_exec (hcfg : configOk s.cfg = true) (hset : agentSetOk s.cfg = true)
    (hmover : s.mover = some (a, rest)) {i : Instr}
    (hword : decode ((s.begin a rest).agent a).cmd = .op i) : step s = exec i (s.begin a rest) := by
  simp only [step, if_pos hcfg, if_pos hset, hmover, hword]

/-- The step of an agent whose word spells no operation is its refusal (R103 part 2). -/
theorem step_eq_refuse (hcfg : configOk s.cfg = true) (hset : agentSetOk s.cfg = true)
    (hmover : s.mover = some (a, rest)) {reason : RefuseReason}
    (hword : decode ((s.begin a rest).agent a).cmd = .refused reason) :
    step s = .next ((s.begin a rest).refuse a reason) := by
  simp only [step, if_pos hcfg, if_pos hset, hmover, hword]

@[simp] theorem State.begin_ext (s : State) (a : AgentId) (rest : List AgentId) :
    (s.begin a rest).ext = s.ext := by
  unfold State.begin State.sampleInput
  split <;> split <;> rfl

@[simp] theorem State.begin_guard (s : State) (a : AgentId) (rest : List AgentId) :
    (s.begin a rest).guard = s.guard := by
  unfold State.begin State.sampleInput
  split <;> split <;> rfl

/-- The record of an idle agent of the machine, its step begun: the latches are loaded. -/
theorem State.begin_lookup_idle {g : Agent} (hl : lookupAgent s.agents a = some g)
    (hidle : (s.agent a).uprog = []) :
    lookupAgent (s.begin a rest).agents a = some g.loadLatches := by
  unfold State.begin
  rw [if_pos (by simpa [Agent.idle] using hidle), State.lookup_modAgent_self,
    State.sampleInput_agents, hl]
  rfl

/-- The latches of an agent that has a command at its index. -/
theorem Agent.loadLatches_of_command {g : Agent} {c : Command} (h : g.prog[g.cpc]? = some c) :
    g.loadLatches = { g with cmd := c.cmd, data := c.data, mask := c.mask, addr := c.addr } := by
  simp only [Agent.loadLatches, h]

/-- What a refusal makes of the agent's record (R201). -/
theorem State.refuse_agent_self (h : (lookupAgent s.agents a).isSome) (reason : RefuseReason) :
    (s.refuse a reason).agent a = { s.agent a with refused := some reason } :=
  State.agent_modAgent_self s a (fun g => { g with refused := some reason }) h

/-- What a refusal leaves: the registers, the fixup register, the guard and the binding (R201). -/
theorem State.refuse_frame (s : State) (a : AgentId) (reason : RefuseReason) :
    (s.refuse a reason).csr = s.csr ∧ (s.refuse a reason).ext = s.ext ∧
      (s.refuse a reason).guard = s.guard ∧ (s.refuse a reason).bound = s.bound :=
  ⟨rfl, rfl, rfl, rfl⟩

/-- A refusal stops the agent (R201). -/
theorem State.refuse_enabled_self (h : (lookupAgent s.agents a).isSome) (reason : RefuseReason) :
    (s.refuse a reason).enabled a = false := by
  refine State.enabled_of_stopped ?_
  simp [State.refuse_agent_self h, Agent.stopped]

end

/-- Settles O4: the issue step decodes the word just loaded, and the refusal changes the agent's own mark
and the history. -/
theorem reservedWordsAreRefusedAtIssue : Obligations.ReservedWordsAreRefusedAtIssue := by
  intro s a rest c hcfg hset hmover hidle hcmd
  have hlookup := State.begin_lookup_idle (rest := rest)
    (State.lookup_of_enabled (State.enabled_of_mover hmover)) hidle
  rw [Agent.loadLatches_of_command hcmd] at hlookup
  have hisSome : (lookupAgent (s.begin a rest).agents a).isSome := by simp [hlookup]
  have hword : ((s.begin a rest).agent a).cmd = c.cmd := by simp [State.agent, hlookup]
  have hcpc : ((s.begin a rest).agent a).cpc = (s.agent a).cpc := by simp [State.agent, hlookup]
  refine ⟨fun hopc => ?_, fun hopc hfield => ?_, fun hopc hres hoperand => ?_, fun r => ?_⟩
  · exact step_eq_refuse hcfg hset hmover (hword ▸ decode_of_opcField_eq hopc)
  · exact step_eq_refuse hcfg hset hmover (hword ▸ decode_of_nonzero_field hopc hfield)
  · obtain ⟨i, hdecode⟩ := exists_decode_eq_op hopc hres hoperand
    exact ⟨i, hdecode, step_eq_exec hcfg hset hmover (hword ▸ hdecode)⟩
  · obtain ⟨hcsr, hext, hguard, hbound⟩ := (s.begin a rest).refuse_frame a r
    refine ⟨?_, ?_, ?_, hcsr.trans (s.begin_csr a rest), hext.trans (s.begin_ext a rest),
      hguard.trans (s.begin_guard a rest), hbound.trans (s.begin_bound a rest),
      State.refuse_enabled_self hisSome r⟩
    · rw [State.refuse_agent_self hisSome]
    · rw [State.refuse_agent_self hisSome]
      exact hcpc
    · exact congrArg (· ++ [_]) (s.begin_history a rest)

/-! ## The clock codec -/

/-- A placed bit, bit by bit. -/
theorem getLsbD_placeBit (b : Bool) (n i : Nat) :
    (placeBit b n).getLsbD i = (decide (i < 32) && decide (i = n) && b) := by
  simp only [placeBit, BitVec.getLsbD_shiftLeft, BitVec.getLsbD_setWidth, BitVec.getLsbD_ofBool]
  rcases lt_trichotomy i n with hlt | rfl | hgt
  · simp [hlt, hlt.ne]
  · simp
  · simp [hgt.ne', Nat.sub_ne_zero_of_lt hgt]

/-- CLK_MASK is the encoding of all four clock enables. -/
theorem clkMask_eq_clkEncode (c : Config) : clkMask c = clkEncode c 0xF := rfl

/-- The encoded word, bit by bit (R81). -/
theorem getLsbD_clkEncode (c : Config) (v : BitVec 4) (i : Nat) :
    (clkEncode c v).getLsbD i = (decide (i < 32) &&
      (decide (i = c.clkIspTopBit) && v.getLsbD 0 || decide (i = c.clkAxiBit) && v.getLsbD 1 ||
        decide (i = c.clkCsi0Bit) && v.getLsbD 2 || decide (i = c.clkCsi1Bit) && v.getLsbD 3)) := by
  simp only [clkEncode, BitVec.getLsbD_or, getLsbD_placeBit, Bool.and_assoc, Bool.and_or_distrib_left]

/-- The four named bits of a word, in the order of R81. -/
theorem getLsbD_clkDecode (c : Config) (w : Word) :
    (clkDecode c w).getLsbD 0 = w.getLsbD c.clkIspTopBit ∧
    (clkDecode c w).getLsbD 1 = w.getLsbD c.clkAxiBit ∧
    (clkDecode c w).getLsbD 2 = w.getLsbD c.clkCsi0Bit ∧
    (clkDecode c w).getLsbD 3 = w.getLsbD c.clkCsi1Bit := by
  simp only [clkDecode, BitVec.getLsbD_append, BitVec.getLsbD_ofBool]
  exact ⟨rfl, rfl, rfl, rfl⟩

/-- A one-bit field widened and shifted is that bit placed. -/
theorem extractLsb'_one_shiftLeft (v : BitVec 4) (k n : Nat) :
    (v.extractLsb' k 1).setWidth 32 <<< n = placeBit (v.getLsbD k) n := by
  unfold placeBit
  congr 2
  ext i hi
  obtain rfl : i = 0 := by omega
  simp

/-- Two 4-bit values with the same four bits. -/
theorem eq_of_four_bits {u v : BitVec 4} (h0 : u.getLsbD 0 = v.getLsbD 0)
    (h1 : u.getLsbD 1 = v.getLsbD 1) (h2 : u.getLsbD 2 = v.getLsbD 2)
    (h3 : u.getLsbD 3 = v.getLsbD 3) : u = v := by
  refine BitVec.eq_of_getLsbD_eq fun i hi => ?_
  interval_cases i <;> assumption

/-- The four clock bits are distinct (R7 (4)), so decoding gives back what was encoded (R81). -/
theorem clkDecode_clkEncode {c : Config} (h : clkBitsOk c = true) (v : BitVec 4) :
    clkDecode c (clkEncode c v) = v := by
  obtain ⟨h0, h1, h2, h3⟩ := getLsbD_clkDecode c (clkEncode c v)
  simp only [clkBitsOk, Bool.and_eq_true, decide_eq_true_eq, List.nodup_cons, List.mem_cons,
    List.not_mem_nil, not_or, List.all_cons, or_false] at h
  obtain ⟨⟨⟨h01, h02, h03⟩, ⟨h12, h13⟩, h23, -⟩, hlt⟩ := h
  obtain ⟨⟨-, hlt0⟩, ⟨-, hlt1⟩, ⟨-, hlt2⟩, ⟨-, hlt3⟩, -⟩ := hlt
  refine eq_of_four_bits (h0.trans ?_) (h1.trans ?_) (h2.trans ?_) (h3.trans ?_) <;>
    rw [getLsbD_clkEncode]
  · simp [h01, h02, h03, hlt0]
  · simp [Ne.symm h01, h12, h13, hlt1]
  · simp [Ne.symm h02, Ne.symm h12, h23, hlt2]
  · simp [Ne.symm h03, Ne.symm h13, Ne.symm h23, hlt3]

/-- Encoding what was decoded keeps the four clock bits and clears every other (R81). -/
theorem clkEncode_clkDecode (c : Config) (w : Word) :
    clkEncode c (clkDecode c w) = w &&& clkMask c := by
  obtain ⟨h0, h1, h2, h3⟩ := getLsbD_clkDecode c w
  refine BitVec.eq_of_getLsbD_eq fun i hi => ?_
  rw [BitVec.getLsbD_and, clkMask_eq_clkEncode, getLsbD_clkEncode, getLsbD_clkEncode, h0, h1, h2, h3]
  have hname : ∀ n, (decide (i = n) && w.getLsbD n) = (w.getLsbD i && decide (i = n)) := by
    intro n
    by_cases hin : i = n <;> simp [hin]
  simp [hname, hi, Bool.and_or_distrib_left]

/-- Encoding touches no bit outside CLK_MASK (R81): an encoded word is the encoding of what it decodes
to, and so is a word under CLK_MASK. -/
theorem clkEncode_and_not_clkMask {c : Config} (h : clkBitsOk c = true) (v : BitVec 4) :
    clkEncode c v &&& ~~~clkMask c = 0 := by
  have hmasked : clkEncode c v &&& clkMask c = clkEncode c v := by
    rw [← clkEncode_clkDecode, clkDecode_clkEncode h]
  rw [← hmasked, BitVec.and_assoc]
  simp

/-- In the default profile the four bits are in order from bit 16 (R81). -/
theorem clkEncode_defaultProfile :
    ∀ v : BitVec 4, clkEncode Config.defaultProfile v = v.setWidth 32 <<< 16 := by decide

/-- Settles O8: the four decoded bits, the two round trips, and each one-bit field as a placed bit. -/
theorem clockCodecLaws : Obligations.ClockCodecLaws := by
  intro c w v h
  obtain ⟨h0, h1, h2, h3⟩ := getLsbD_clkDecode c w
  refine ⟨h0, h1, h2, h3, ?_, clkDecode_clkEncode h v, clkEncode_clkDecode c w,
    clkEncode_and_not_clkMask h v, clkEncode_defaultProfile v⟩
  simp only [extractLsb'_one_shiftLeft, clkEncode]

/-! ## The reset codec -/

/-- A field under a mask, shifted into place, is the word under the shifted mask. -/
theorem ushiftRight_and_shiftLeft (r m : Word) (n : Nat) :
    ((r >>> n) &&& m) <<< n = r &&& (m <<< n) := by
  rw [BitVec.shiftLeft_and_distrib, BitVec.shiftLeft_ushiftRight, BitVec.and_assoc,
    ← BitVec.shiftLeft_and_distrib, BitVec.allOnes_and]

/-- Under its mask a masked write leaves the value written. -/
theorem maskedValue_and_mask (old m v : Word) : maskedValue old m v &&& m = v &&& m := by
  ext i hi
  cases hm : m[i] <;> simp [maskedValue, hm]

/-- A field of a logical reset word: that field of word A and of word B in place, each under its mask. -/
theorem extractLsb'_rstDecode (a b : Word) (start len : Nat) :
    (rstDecode a b).extractLsb' start len =
      a.extractLsb' start len &&& rstMaskA.extractLsb' start len |||
        (b <<< rstShiftB).extractLsb' start len &&& (rstMaskB <<< rstShiftB).extractLsb' start len := by
  rw [rstDecode, BitVec.shiftLeft_and_distrib, BitVec.extractLsb'_or, BitVec.extractLsb'_and,
    BitVec.extractLsb'_and]

/-- The upper half of a logical reset word is zero: neither mask has a bit there (R82). -/
theorem rstDecode_upper_half (a b : Word) : (rstDecode a b).extractLsb' 16 16 = 0 := by
  have hA : rstMaskA.extractLsb' 16 16 = 0#16 := by decide
  have hB : (rstMaskB <<< rstShiftB).extractLsb' 16 16 = 0#16 := by decide
  rw [extractLsb'_rstDecode, hA, hB]
  simp

/-- Bits 12 and 13 come from word B alone: RST_MASK_A is zero there (R82). -/
theorem rstDecode_split (a b : Word) : (rstDecode a b).extractLsb' 12 2 = b.extractLsb' 0 2 := by
  have hA : rstMaskA.extractLsb' 12 2 = 0#2 := by decide
  have hB : (rstMaskB <<< rstShiftB).extractLsb' 12 2 = BitVec.allOnes 2 := by decide
  have hshift : (b <<< rstShiftB).extractLsb' 12 2 = b.extractLsb' 0 2 := by
    ext i hi
    have hi' : 12 + i < 32 ∧ i < 32 := by omega
    simp [rstShiftB, hi', BitVec.getLsbD_eq_getElem]
  rw [extractLsb'_rstDecode, hA, hB, hshift, BitVec.and_zero, BitVec.zero_or, BitVec.and_allOnes]

/-- Writing a logical reset word into the two words and decoding them gives back its lower half: bits 12
and 13 through word B, the others through word A (R83). -/
theorem rstDecode_maskedValue (a b r : Word) :
    rstDecode (maskedValue a rstMaskA r) (maskedValue b rstMaskB (r >>> rstShiftB)) =
      r &&& rstLogicalMask := by
  rw [rstDecode, maskedValue_and_mask, maskedValue_and_mask, ushiftRight_and_shiftLeft, rstLogicalMask,
    BitVec.and_or_distrib_left]

/-- Settles O9: the two masks, and the masked writes of both words, decoded. -/
theorem resetCodecLaws : Obligations.ResetCodecLaws := fun a b r =>
  ⟨rfl, rstDecode_upper_half a b, rstDecode_split a b, rfl, rfl, rstDecode_maskedValue a b r⟩

end Sys2Proof.Machine
end

section
/-! PROOFS of the family 40_register_access: where RET stands in the micro-programs, and that no other
micro-op writes RDATA (R104). -/

namespace Sys2Proof.Machine

/-! ## RET in the micro-programs -/

section
variable (e : Expr)

@[simp] theorem ret_notMem_maskedWrite (p : Place) (m v : Expr) :
    MicroOp.ret e ∉ maskedWrite p m v := by
  simp [maskedWrite]

@[simp] theorem ret_notMem_readRst : MicroOp.ret e ∉ readRst := by
  simp [readRst]

@[simp] theorem ret_notMem_setRst (v : Expr) : MicroOp.ret e ∉ setRst v := by
  simp [setRst]

@[simp] theorem ret_notMem_changeRst (v : Expr) : MicroOp.ret e ∉ changeRst v := by
  simp [changeRst]

@[simp] theorem ret_notMem_setClk (c : Config) (v : Expr) : MicroOp.ret e ∉ setClk c v :=
  ret_notMem_maskedWrite e _ _ _

@[simp] theorem ret_notMem_bringupRelease (c : Config) (clocks : BitVec 4) (lines : Word) :
    MicroOp.ret e ∉ bringupRelease c clocks lines := by
  simp [bringupRelease, setClkConst]

theorem ret_notMem_toggleResetProg : MicroOp.ret e ∉ toggleResetProg := by
  simp [toggleResetProg]

theorem ret_notMem_bringupProg (c : Config) : MicroOp.ret e ∉ bringupProg c := by
  simp [bringupProg, bringupStep1, bringupStep2, bringupStep6, bringupStep7, setClkConst]

/-- A command that is no getter has no RET (R104). -/
theorem ret_notMem_program (c : Config) {i : Instr} (hi : getter i = false) :
    MicroOp.ret e ∉ program c i := by
  cases i with
  | getIspClock | getLpClock | getReset | getIntStatus | getIntMask | rawRead => exact nomatch hi
  | bind => simp [program, bindProg]
  | setIspClock => exact ret_notMem_setClk e c _
  | setLpClock => simp [program, setLpClockProg]
  | setReset => exact ret_notMem_setRst e _
  | toggleReset => exact ret_notMem_toggleResetProg e
  | setIntMask => simp [program, setIntMaskProg]
  | bringup => exact ret_notMem_bringupProg e c
  | setAxiMode bus offline => exact ret_notMem_maskedWrite e _ _ _
  | rawWriteMasked => exact ret_notMem_maskedWrite e _ _ _

end

/-- A getter's micro-program is its reads, then RET (R104). -/
theorem program_getter (c : Config) {i : Instr} (hi : getter i = true) :
    ∃ p e, program c i = p ++ [.ret e] ∧ ∀ e', MicroOp.ret e' ∉ p := by
  cases i with
  | getReset => exact ⟨readRst, _, rfl, ret_notMem_readRst⟩
  | getIspClock | getLpClock | getIntStatus | getIntMask | rawRead =>
    exact ⟨[.ld .x0 _], _, rfl, by simp⟩
  | bind | setIspClock | setLpClock | setReset | toggleReset | setIntMask | bringup | setAxiMode
  | rawWriteMasked => exact nomatch hi

/-! ## The writers of RDATA -/

/-- Changing an agent's record keeps whatever part of it the change keeps. -/
theorem State.agent_modAgent_keeps {β : Type} (s : State) (a b : AgentId) {f : Agent → Agent}
    (part : Agent → β) (hf : ∀ g, part (f g) = part g) :
    part ((s.modAgent a f).agent b) = part (s.agent b) := by
  by_cases hb : b = a
  · subst hb
    unfold State.agent
    rw [State.lookup_modAgent_self]
    cases lookupAgent s.agents b with
    | none => rfl
    | some g => exact hf g
  · rw [State.agent_modAgent_other s a b f hb]

/-- Completing a micro-op leaves RDATA (R103). -/
@[simp] theorem Agent.advance_rdata (g : Agent) : g.advance.rdata = g.rdata := by
  unfold Agent.advance
  split <;> rfl

section
variable {a b : AgentId} {s t u : State}

/-- A change of one agent's record that leaves its RDATA, over a change of what is no agent's, leaves
every agent's RDATA. -/
theorem State.agent_modAgent_rdata {f : Agent → Agent} (hagents : u.agents = s.agents)
    (hf : ∀ g, (f g).rdata = g.rdata) :
    ((u.modAgent a f).agent b).rdata = (s.agent b).rdata := by
  rw [State.agent_modAgent_keeps u a b Agent.rdata hf, State.agent, State.agent, hagents]

/-- Every micro-op but RET leaves RDATA (R100, R104). -/
theorem runOp_rdata {op : MicroOp} (h : runOp s a op = .next t) (hop : ∀ e, op ≠ .ret e) :
    (t.agent b).rdata = (s.agent b).rdata := by
  cases op with
  | ret e => exact absurd rfl (hop e)
  | ld i p =>
    rcases runLd_cases s a i p with hfault | ⟨ad, v, u, -, hread, hnext⟩
    · exact nomatch hfault.symm.trans h
    · obtain rfl := Host.Outcome.next.inj (hnext.symm.trans h)
      rw [State.record_agent]
      exact State.agent_modAgent_rdata (State.memRead_frame hread).1 (fun _ => Agent.advance_rdata _)
  | st p e =>
    rcases runSt_cases s a p e with hfault | ⟨ad, u, -, hwrite, hnext⟩
    · exact nomatch hfault.symm.trans h
    · obtain rfl := Host.Outcome.next.inj (hnext.symm.trans h)
      exact State.agent_modAgent_rdata (State.memWrite_frame hwrite).1 Agent.advance_rdata
  | set i e =>
    obtain rfl := Host.Outcome.next.inj h
    exact State.agent_modAgent_rdata rfl (fun _ => Agent.advance_rdata _)
  | bindop | acq | rel | wait us =>
    obtain rfl := Host.Outcome.next.inj h
    exact State.agent_modAgent_rdata rfl Agent.advance_rdata

/-- A fault leaves the result latch with the others (R200). -/
theorem State.raiseFault_rdata (s : State) (a : AgentId) (code : FaultCode) :
    ((s.raiseFault a code).agent b).rdata = (s.agent b).rdata :=
  State.agent_modAgent_rdata (f := fun g => { g with fault := some code }) rfl (fun _ => rfl)

/-- The issue step leaves RDATA, whether it faults or sets the micro-program up (R103). -/
theorem issue_rdata (s : State) (a : AgentId) (check : Option FaultCode) (prog : List MicroOp) :
    ((issue s a check prog).agent b).rdata = (s.agent b).rdata := by
  cases check with
  | none => exact State.agent_modAgent_rdata rfl (fun _ => rfl)
  | some code => exact State.raiseFault_rdata s a code

/-- A step of a command that is not at a RET leaves every agent's RDATA (R104). -/
theorem exec_rdata {i : Instr} (h : exec i s = .next t) (hop : ∀ e, s.currentOp ≠ some (.ret e)) :
    (t.agent b).rdata = (s.agent b).rdata := by
  rcases exec_cases i s with ⟨-, hexec⟩ | ⟨-, hexec⟩ | ⟨op, -, -, hcur, hexec⟩ <;> rw [hexec] at h
  · obtain rfl := Host.Outcome.next.inj h
    rfl
  · obtain rfl := Host.Outcome.next.inj h
    exact issue_rdata s _ _ _
  · exact runOp_rdata h (fun e he => hop e (he ▸ hcur))

/-- The current micro-op of an agent on a command is one of the command's. -/
theorem State.currentOp_mem_program {i : Instr} (h : s.OnCommand i) {op : MicroOp}
    (hop : s.currentOp = some op) : op ∈ program s.cfg i := by
  unfold State.currentOp at hop
  rcases h with hidle | hrun
  · simp [hidle] at hop
  · exact hrun ▸ List.mem_of_getElem? hop

end

/-- Settles O40: the micro-programs, then the one micro-op that writes RDATA; the current micro-op of a
command that is no getter is in its micro-program, so it is no RET. -/
theorem onlyReturnsWriteRdata : Obligations.OnlyReturnsWriteRdata :=
  ⟨fun c _ hi => program_getter c hi,
    fun c _ hi e => ret_notMem_program e c hi,
    fun _ _ _ h hop => exec_rdata h hop,
    fun _ s _ hi hon h => exec_rdata h fun e hcur =>
      ret_notMem_program e s.cfg hi (State.currentOp_mem_program hon hcur)⟩

end Sys2Proof.Machine
end

section
/-! PROOFS of the family 43_sequencer: every step obeys the guard's law (R141 to R143), a history that
obeys it excludes (R147), and so every run from power-on does. -/

namespace Sys2Proof.Machine

/-! ## The guard after an event -/

section
variable {g g' : Guard} {a : AgentId} {e : Event}

/-- An event other than ACQ and REL, of an agent the guard lets step, leaves the guard (R143). -/
theorem Guard.after_eq_self (hlets : g.lets e.agent) (hacq : ∀ b, e ≠ .acq b)
    (hrel : ∀ b, e ≠ .rel b) : g.after e = some g := by
  cases g with
  | free =>
    cases e with
    | acq b => exact absurd rfl (hacq b)
    | rel b => exact absurd rfl (hrel b)
    | bind | rd | wr | wait | ret | fault | refuse => rfl
  | held h =>
    cases e with
    | acq b => exact absurd rfl (hacq b)
    | rel b => exact absurd rfl (hrel b)
    | bind | rd | wr | wait | ret | fault | refuse => exact if_neg (hlets h rfl)

/-- The guard's law lets an ACQ only take a free guard (R141). -/
theorem Guard.after_acq (h : g.after (.acq a) = some g') : g' = .held a := by
  cases g with
  | free => exact (Option.some.inj h).symm
  | held b => exact nomatch h

/-- While the guard is held, the law allows no ACQ and no event of another agent of the holder's core, and
only the holder's REL frees it (R141 to R143). -/
theorem Guard.after_held (h : (Guard.held a).after e = some g') (hrel : e ≠ .rel a) :
    g' = .held a ∧ (∀ b, e ≠ .acq b) ∧ (e.agent ≠ a → e.agent.core ≠ a.core) := by
  cases e with
  | acq b => exact nomatch h
  | rel b =>
    simp only [Guard.after] at h
    split_ifs at h with hba
    exact absurd (congrArg Event.rel hba) hrel
  | bind | rd | wr | wait | ret | fault | refuse =>
    simp only [Guard.after] at h
    split_ifs at h with hcore
    exact ⟨(Option.some.inj h).symm, nofun, fun hne heq => hcore ⟨hne, heq⟩⟩

/-! ## The guard after a history -/

theorem Guard.replay_append (g : Guard) (l m : List Event) :
    g.replay (l ++ m) = (g.replay l).bind fun g' => g'.replay m := by
  induction l generalizing g with
  | nil => rfl
  | cons e l ih =>
    simp only [List.cons_append, Guard.replay, Option.bind_assoc]
    exact congrArg _ (funext ih)

/-- While the holder does not release it, the guard stays held and its law holds of every event. -/
theorem Guard.replay_held {l : List Event} (h : (Guard.held a).replay l = some g')
    (hrel : Event.rel a ∉ l) :
    ∀ e ∈ l, (∀ b, e ≠ .acq b) ∧ (e.agent ≠ a → e.agent.core ≠ a.core) := by
  induction l with
  | nil => exact nofun
  | cons e l ih =>
    obtain ⟨hhead, htail⟩ := List.ne_and_not_mem_of_not_mem_cons hrel
    obtain ⟨g₁, hafter, hreplay⟩ := Option.bind_eq_some_iff.mp h
    obtain ⟨rfl, hlaw⟩ := Guard.after_held hafter hhead.symm
    exact List.forall_mem_cons.mpr ⟨hlaw, ih hreplay htail⟩

/-- R147 of a history that keeps the guard's law: its ACQ takes the guard, held until the next REL. -/
theorem excludes_of_replay {h : List Event} (hh : Guard.free.replay h = some g) : Excludes h := by
  rintro pre mid post a rfl hrel e he hne
  rw [Guard.replay_append] at hh
  obtain ⟨g₀, -, hacq⟩ := Option.bind_eq_some_iff.mp hh
  obtain ⟨g₁, hafter, hrest⟩ := Option.bind_eq_some_iff.mp hacq
  obtain rfl := Guard.after_acq hafter
  rw [Guard.replay_append] at hrest
  obtain ⟨g₂, hmid, -⟩ := Option.bind_eq_some_iff.mp hrest
  obtain ⟨hnoAcq, hcore⟩ := Guard.replay_held hmid hrel e he
  exact ⟨hnoAcq, hcore hne⟩

end

/-! ## The guard in a step of the machine -/

/-- What a step can do to the guard: nothing, with no event recorded; or what the guard's law makes of the
one event it records. -/
inductive State.GuardStep (s t : State) : Prop where
  | quiet (hist : t.history = s.history) (guard : t.guard = s.guard)
  | event (e : Event) (hist : t.history = s.history ++ [e]) (law : s.guard.after e = some t.guard)

section
variable {a : AgentId} {s t u : State}

/-- A step that records an event other than ACQ and REL of an agent the guard lets step, and leaves the
guard. -/
theorem State.GuardStep.of_other (e : Event) (hlets : s.guard.lets e.agent)
    (hist : t.history = s.history ++ [e]) (guard : t.guard = s.guard)
    (hacq : ∀ b, e ≠ .acq b := by nofun) (hrel : ∀ b, e ≠ .rel b := by nofun) : s.GuardStep t :=
  .event e hist (guard.symm ▸ Guard.after_eq_self hlets hacq hrel)

/-- A step that keeps the guard's law after a change that leaves the guard and the history. -/
theorem State.GuardStep.of_frame (h : u.GuardStep t) (hhist : u.history = s.history)
    (hguard : u.guard = s.guard) : s.GuardStep t := by
  cases h with
  | quiet hist guard => exact .quiet (hist.trans hhist) (guard.trans hguard)
  | event e hist law => exact .event e (hhist ▸ hist) (hguard ▸ law)

/-- The guard stays what the history makes it. -/
theorem State.GuardStep.keeps_replay (h : s.GuardStep t)
    (hs : Guard.free.replay s.history = some s.guard) :
    Guard.free.replay t.history = some t.guard := by
  cases h with
  | quiet hist guard => rw [hist, guard, hs]
  | event e hist law => simp [hist, Guard.replay_append, hs, Guard.replay, law]

/-- A read leaves the guard. -/
theorem State.memRead_guard {ad : Addr} {v : Word} (h : s.memRead ad = some (v, t)) :
    t.guard = s.guard := by
  rcases State.memRead_cases h with rfl | ⟨-, rfl⟩ <;> rfl

/-- A write leaves the guard. -/
theorem State.memWrite_guard {ad : Addr} {v : Word} (h : s.memWrite ad v = some t) :
    t.guard = s.guard := by
  rcases State.memWrite_cases h with ⟨r, -, rfl⟩ | ⟨-, rfl⟩ | ⟨-, rfl⟩
  · exact State.writeReg_guard s r v
  · rfl
  · rfl

/-- The guard lets an agent that has an enabled step (R143). -/
theorem State.lets_of_enabled (h : s.enabled a = true) : s.guard.lets a := by
  rw [State.enabled_eq (State.lookup_of_enabled h)] at h
  simp only [Bool.and_eq_true, Bool.not_eq_true', State.excluded] at h
  obtain ⟨⟨-, hexcluded⟩, -⟩ := h
  intro g hg
  simpa [hg] using hexcluded

/-- The current micro-op of an enabled agent has a step: at ACQ the guard is free, at REL the agent holds
it (R141, R142). -/
theorem State.opEnabled_of_currentOp {op : MicroOp} (h : s.enabled s.turn = true)
    (hop : s.currentOp = some op) : s.opEnabled s.turn op = true := by
  rw [State.enabled_eq (State.lookup_of_enabled h), Bool.and_eq_true] at h
  exact State.hasWork_running hop ▸ h.2

/-- Each micro-op run where it has a step keeps the guard's law (R141, R142). -/
theorem runOp_guardStep {op : MicroOp} (hlets : s.guard.lets a) (hop : s.opEnabled a op = true)
    (h : runOp s a op = .next t) : s.GuardStep t := by
  cases op with
  | ld i p =>
    rcases runLd_cases s a i p with hfault | ⟨ad, v, u, -, hread, hnext⟩
    · exact nomatch hfault.symm.trans h
    · obtain rfl := Host.Outcome.next.inj (hnext.symm.trans h)
      have hhist := (State.memRead_frame hread).2
      have hguard := State.memRead_guard hread
      exact .of_other (.rd a ad v) hlets (congrArg (· ++ [_]) hhist) hguard
  | st p e =>
    rcases runSt_cases s a p e with hfault | ⟨ad, u, -, hwrite, hnext⟩
    · exact nomatch hfault.symm.trans h
    · obtain rfl := Host.Outcome.next.inj (hnext.symm.trans h)
      have hhist := (State.memWrite_frame hwrite).2
      have hguard := State.memWrite_guard hwrite
      exact .of_other (.wr a ad _) hlets (congrArg (· ++ [_]) hhist) hguard
  | set i e =>
    obtain rfl := Host.Outcome.next.inj h
    exact .quiet rfl rfl
  | acq =>
    obtain rfl := Host.Outcome.next.inj h
    have hfree : s.guard = .free := of_decide_eq_true hop
    exact .event (.acq a) rfl (by rw [hfree]; rfl)
  | rel =>
    obtain rfl := Host.Outcome.next.inj h
    have hheld : s.guard = .held a := of_decide_eq_true hop
    exact .event (.rel a) rfl (by rw [hheld]; exact if_pos rfl)
  | ret e =>
    obtain rfl := Host.Outcome.next.inj h
    exact .of_other (.ret a _) hlets rfl rfl
  | bindop =>
    obtain rfl := Host.Outcome.next.inj h
    exact .of_other (.bind a _) hlets rfl rfl
  | wait us =>
    obtain rfl := Host.Outcome.next.inj h
    exact .of_other (.wait a us) hlets rfl rfl

/-- The issue step leaves the guard; a fault is an event of the agent (R103, R200). -/
theorem issue_guardStep (hlets : s.guard.lets a) (check : Option FaultCode) (prog : List MicroOp) :
    s.GuardStep (issue s a check prog) := by
  cases check with
  | none => exact .quiet rfl rfl
  | some code => exact .of_other (.fault a code) hlets rfl rfl

theorem State.refuse_guardStep (hlets : s.guard.lets a) (reason : RefuseReason) :
    s.GuardStep (s.refuse a reason) :=
  .of_other (.refuse a reason) hlets rfl rfl

theorem exec_guardStep {i : Instr} (h : exec i s = .next t) : s.GuardStep t := by
  rcases exec_cases i s with ⟨-, hexec⟩ | ⟨hready, hexec⟩ | ⟨op, henabled, -, hop, hexec⟩ <;>
    rw [hexec] at h
  · obtain rfl := Host.Outcome.next.inj h
    exact .quiet rfl rfl
  · obtain rfl := Host.Outcome.next.inj h
    exact issue_guardStep (State.lets_of_ready hready) _ _
  · exact runOp_guardStep (State.lets_of_enabled henabled)
      (State.opEnabled_of_currentOp henabled hop) h

/-- Every step of the machine keeps the guard's law (R141 to R143). -/
theorem step_guardStep (h : step s = .next t) : s.GuardStep t := by
  obtain ⟨a, rest, hmover, hcase⟩ := step_cases h
  refine State.GuardStep.of_frame (u := s.begin a rest) ?_ (s.begin_history a rest)
    (s.begin_guard a rest)
  rcases hcase with ⟨i, -, hexec⟩ | ⟨reason, -, rfl⟩
  · exact exec_guardStep hexec
  · have hlets := State.lets_of_enabled (State.enabled_of_mover hmover)
    exact State.refuse_guardStep ((s.begin_guard a rest).symm ▸ hlets) reason

/-! ## Runs -/

/-- A run of `n + 1` steps is a step and a run of `n`. -/
theorem run_succ {n : Nat} (h : Host.Core.run Sys2Proof.core (n + 1) s = .next t) :
    ∃ u, step s = .next u ∧ Host.Core.run Sys2Proof.core n u = .next t := by
  simp only [Host.Core.run] at h
  split at h
  next u hu => exact ⟨u, hu, h⟩
  next => exact nomatch h
  next => exact nomatch h

/-- What every step keeps holds at the end of a run. -/
theorem Reaches.keeps {P : State → Prop} (hstep : ∀ s t, P s → step s = .next t → P t)
    (h : Reaches s t) (hs : P s) : P t := by
  obtain ⟨n, hrun⟩ := h
  induction n generalizing s with
  | zero => exact Host.Outcome.next.inj hrun ▸ hs
  | succ n ih =>
    obtain ⟨u, hu, hrest⟩ := run_succ hrun
    exact ih (hstep s u hs hu) hrest

/-- At power-on the guard is free and the history empty (R230). -/
theorem State.PowerOn.replay (h : s.PowerOn) : Guard.free.replay s.history = some s.guard := by
  obtain ⟨-, hguard, hhist, -⟩ := h
  rw [hguard, hhist]
  rfl

end

/-- Settles O56: the history of a run from power-on keeps the guard's law, so it excludes. -/
theorem guardedSectionsExcludeEachOther : Obligations.GuardedSectionsExcludeEachOther := by
  intro s t hs hrun
  have hreplay : Guard.free.replay t.history = some t.guard :=
    hrun.keeps (P := fun u => Guard.free.replay u.history = some u.guard)
      (fun _ _ hu hstep => (step_guardStep hstep).keeps_replay hu) hs.replay
  exact excludes_of_replay hreplay

end Sys2Proof.Machine
end

section
/-! PROOFS of the family 44_interrupt_axi: the interrupt output and the other level outputs. -/

namespace Sys2Proof.Machine

section
variable {s : State}

/-- R184: the output is high when a pending source is enabled. -/
theorem State.irqO_eq_true_iff : s.irqO = true ↔ s.intSrc &&& s.intEnables ≠ 0 := decide_eq_true_iff

/-- R184 under ENABLE_HIGH. -/
theorem State.intEnables_of_enableHigh (h : s.cfg.intMaskPolarity = .enableHigh) :
    s.intEnables = s.csr.intmsk := by
  rw [State.intEnables, h]

/-- R184 under MASK_HIGH. -/
theorem State.intEnables_of_maskHigh (h : s.cfg.intMaskPolarity = .maskHigh) :
    s.intEnables = ~~~s.csr.intmsk := by
  rw [State.intEnables, h]

end

/-- R131 with R82: the reset output is the decoded reset state of the words A and B. -/
theorem State.rstO_eq (s : State) :
    s.rstO = ((s.csr.rstclk &&& 0xcfff) ||| ((s.csr.blken &&& 3) <<< 12)).extractLsb' 0 16 := rfl

/-- Settles O49: `irq_o` by the enables under each polarity; the other outputs are the registers'
decodings by definition. -/
theorem outputsFollowTheRegisters : Obligations.OutputsFollowTheRegisters := by
  intro s
  refine ⟨s.rstO_eq, rfl, rfl, rfl, fun hpol => ?enableHigh, fun hpol => ?maskHigh⟩
  case enableHigh => rw [State.irqO_eq_true_iff, State.intEnables_of_enableHigh hpol]
  case maskHigh => rw [State.irqO_eq_true_iff, State.intEnables_of_maskHigh hpol]

end Sys2Proof.Machine
end

section
/-! PROOFS of the family 60_exceptions: a fault at issue stops its agent for good (R200); every access of
an admitted command is to an address that exists, so nothing faults after the issue step (R205). -/

namespace Sys2Proof.Machine

/-! ## A fault at issue -/

section
variable {s : State} {a : AgentId}

/-- What a fault makes of the agent's record (R200). -/
theorem State.raiseFault_agent_self (h : (lookupAgent s.agents a).isSome) (code : FaultCode) :
    (s.raiseFault a code).agent a = { s.agent a with fault := some code } :=
  State.agent_modAgent_self s a (fun g => { g with fault := some code }) h

/-- A fault is its agent's own (R200). -/
theorem State.raiseFault_agent_other {b : AgentId} (hb : b ≠ a) (code : FaultCode) :
    (s.raiseFault a code).agent b = s.agent b :=
  State.agent_modAgent_other s a b (fun g => { g with fault := some code }) hb

theorem State.raiseFault_stopped (h : (lookupAgent s.agents a).isSome) (code : FaultCode) :
    ((s.raiseFault a code).agent a).stopped = true := by
  simp [State.raiseFault_agent_self h, Agent.stopped]

/-- A state in which an agent is stopped is not final (R247). -/
theorem State.final_of_stopped (h : (s.agent a).stopped = true) : s.final = false := by
  cases hl : lookupAgent s.agents a with
  | none => simp [State.agent, hl, Agent.reset, Agent.stopped] at h
  | some g =>
    have hg : g.stopped = true := by simpa [State.agent, hl] using h
    refine Bool.eq_false_iff.mpr fun hfinal => ?_
    simp only [State.final, Bool.and_eq_true, List.all_eq_true] at hfinal
    obtain ⟨hall, -⟩ := hfinal
    obtain ⟨-, hlive⟩ := hall (a, g) (lookupAgent_mem hl)
    simp [hg] at hlive

/-- The issue step of a command whose first failing precondition is `code` is the fault (R103, R200). -/
theorem exec_of_precondition {i : Instr} {code : FaultCode} (hready : s.Ready)
    (hpre : precondition s i = some code) : exec i s = .next (s.raiseFault s.turn code) := by
  rw [exec_issue hready, hpre]
  rfl

end

/-- Settles O15: the issue step is the fault, which changes the agent's record and the history; the agent
is stopped, and a stopped agent's record stays (R37). -/
theorem faultAtIssueStopsTheAgent : Obligations.FaultAtIssueStopsTheAgent := by
  intro i s code hready hpre
  have hisSome : (lookupAgent s.agents s.turn).isSome := by simp [State.lookup_of_enabled hready.1]
  have hself := State.raiseFault_agent_self hisSome code
  have hstopped := State.raiseFault_stopped hisSome code
  refine ⟨s.raiseFault s.turn code, exec_of_precondition hready hpre, rfl, hself,
    fun b hb => State.raiseFault_agent_other hb code, rfl, rfl, rfl, rfl, rfl, rfl,
    State.enabled_of_stopped hstopped, State.final_of_stopped hstopped, fun u hstep => ?_⟩
  obtain ⟨-, hstays⟩ := stoppedAgentsStayStopped
  obtain ⟨hagent, -⟩ := hstays _ u s.turn hstep hstopped
  rw [hagent, hself]

/-! ## The places a command accesses -/

/-- The place a micro-op accesses on the bus. -/
def MicroOp.place : MicroOp → Option Place
  | .ld _ p => some p
  | .st p _ => some p
  | .set _ _ => none
  | .ret _ => none
  | .bindop => none
  | .acq => none
  | .rel => none
  | .wait _ => none

/-- Every bus access of the list is to a place of which `P` holds. -/
def AccessesOnly (P : Place → Prop) (l : List MicroOp) : Prop :=
  ∀ op ∈ l, ∀ p ∈ op.place, P p

section
variable {P : Place → Prop} {l l' : List MicroOp}

@[simp] theorem accessesOnly_nil : AccessesOnly P [] := by simp [AccessesOnly]

@[simp] theorem accessesOnly_cons {op : MicroOp} :
    AccessesOnly P (op :: l) ↔ (∀ p ∈ op.place, P p) ∧ AccessesOnly P l := List.forall_mem_cons

@[simp] theorem accessesOnly_append :
    AccessesOnly P (l ++ l') ↔ AccessesOnly P l ∧ AccessesOnly P l' := List.forall_mem_append

@[simp] theorem accessesOnly_maskedWrite {p : Place} {m v : Expr} :
    AccessesOnly P (maskedWrite p m v) ↔ P p := by
  simp [maskedWrite, MicroOp.place]

/-- A read whose value is returned. -/
theorem accessesOnly_ld_ret {j : Tmp} {p : Place} {e : Expr} :
    AccessesOnly P [.ld j p, .ret e] ↔ P p := by
  simp [MicroOp.place]

/-- A write of a full word. -/
theorem accessesOnly_st {p : Place} {e : Expr} : AccessesOnly P [.st p e] ↔ P p := by
  simp [MicroOp.place]

variable (hreg : ∀ r, P (.reg r))
include hreg

theorem accessesOnly_readRst : AccessesOnly P readRst := by
  simp [readRst, MicroOp.place, hreg]

theorem accessesOnly_setRst (e : Expr) : AccessesOnly P (setRst e) := by
  simp [setRst, hreg]

theorem accessesOnly_changeRst (e : Expr) : AccessesOnly P (changeRst e) := by
  simp [changeRst, MicroOp.place, accessesOnly_readRst hreg, accessesOnly_setRst hreg]

theorem accessesOnly_setClk (c : Config) (v : Expr) : AccessesOnly P (setClk c v) :=
  accessesOnly_maskedWrite.mpr (hreg _)

theorem accessesOnly_bringupRelease (c : Config) (clocks : BitVec 4) (lines : Word) :
    AccessesOnly P (bringupRelease c clocks lines) := by
  simp [bringupRelease, setClkConst, accessesOnly_setClk hreg, accessesOnly_changeRst hreg]

/-- TOGGLE_RESET accesses registers only (R150). -/
theorem accessesOnly_toggleResetProg : AccessesOnly P toggleResetProg := by
  simp [toggleResetProg, MicroOp.place, accessesOnly_readRst hreg, accessesOnly_setRst hreg]

/-- BRINGUP accesses registers and, in its last step, the fixup register (R155, R162). -/
theorem accessesOnly_bringupProg (hfixup : P .fixup) (c : Config) :
    AccessesOnly P (bringupProg c) := by
  simp [bringupProg, bringupStep1, bringupStep2, bringupStep6, bringupStep7, setClkConst,
    MicroOp.place, hfixup, accessesOnly_changeRst hreg, accessesOnly_setClk hreg,
    accessesOnly_bringupRelease hreg]

end

/-- What the address of a place needs in order to exist: the bound window for a register, an aligned
offset inside it for a raw access, an address for the fixup register. -/
def State.Maps (s : State) (g : Agent) : Place → Prop
  | .reg _ => s.bound = true
  | .raw => s.bound = true ∧ g.addr.toNat % 4 = 0 ∧ g.addr.toNat < s.cfg.windowSize
  | .fixup => s.cfg.extFixupAddr.isSome = true

/-- The issue checks of a command cover every place its micro-program accesses (R202, R205). -/
theorem program_accessesOnly_maps {s : State} {g : Agent} {i : Instr} (h : Admitted s g i) :
    AccessesOnly (s.Maps g) (program s.cfg i) := by
  cases i with
  | bind => simp [program, bindProg, MicroOp.place]
  | bringup =>
    obtain ⟨hbound, hfixup⟩ := h
    exact accessesOnly_bringupProg (fun _ => hbound) hfixup s.cfg
  | toggleReset => exact accessesOnly_toggleResetProg fun _ => h
  | setReset => exact accessesOnly_setRst (fun _ => h) _
  | setIspClock => exact accessesOnly_setClk (fun _ => h) _ _
  | setAxiMode | rawWriteMasked => exact accessesOnly_maskedWrite.mpr h
  | getReset =>
    have hread : AccessesOnly (s.Maps g) readRst := accessesOnly_readRst fun _ => h
    simp [program, getResetProg, MicroOp.place, hread]
  | getIspClock | getLpClock | getIntStatus | getIntMask | rawRead => exact accessesOnly_ld_ret.mpr h
  | setLpClock | setIntMask => exact accessesOnly_st.mpr h

/-! ## The accesses exist -/

section
variable {s : State} {g : Agent} {ad : Addr}

/-- An aligned address in the bound window or of the fixup word names something (R48). -/
theorem State.exists_target_of_aligned (haligned : ad.toNat % 4 = 0)
    (h : s.inWindow ad = true ∨ s.cfg.extFixupAddr = some ad.toNat) : ∃ x, s.target ad = some x := by
  unfold State.target
  rw [if_neg (not_not.mpr haligned)]
  by_cases hw : s.inWindow ad = true
  · rw [if_pos hw]
    cases regAt s.cfg (ad.toNat - s.base.toNat) with
    | none => exact ⟨_, rfl⟩
    | some r => exact ⟨_, rfl⟩
  · rw [if_neg hw, if_pos (h.resolve_left hw)]
    exact ⟨_, rfl⟩

/-- A mapped place has an address, and the address names something. A register's and a raw address lie in
the window; the fixup word is aligned (R7 (6)), whether or not the window covers it. -/
theorem State.Maps.exists_target {p : Place} (h : s.Maps g p) (hcfg : configOk s.cfg = true)
    (hbinding : s.bound = true → s.BaseOk) :
    ∃ ad x, s.placeAddr g p = some ad ∧ s.target ad = some x := by
  cases p with
  | reg r => exact ⟨_, _, rfl, State.target_regAddr ⟨hcfg, h, hbinding h⟩ r⟩
  | raw =>
    obtain ⟨hbound, haligned, hlt⟩ := h
    have hbase := hbinding hbound
    have hsum : (s.base + g.addr).toNat = s.base.toNat + g.addr.toNat := by
      simpa using State.windowAddr_toNat ⟨hcfg, hbound, hbase⟩ hlt
    obtain ⟨hbaseAligned, -⟩ := hbase
    obtain ⟨x, hx⟩ := State.exists_target_of_aligned (s := s) (ad := s.base + g.addr) (by omega)
      (.inl (by simp [State.inWindow, hbound, hsum, hlt]))
    exact ⟨_, x, rfl, hx⟩
  | fixup =>
    obtain ⟨e, he⟩ := Option.isSome_iff_exists.mp h
    obtain ⟨haligned, hlt⟩ := fixupAddr_of_configOk hcfg he
    have hnat : (BitVec.ofNat 64 e).toNat = e := by rw [BitVec.toNat_ofNat, Nat.mod_eq_of_lt hlt]
    obtain ⟨x, hx⟩ := State.exists_target_of_aligned (s := s) (ad := BitVec.ofNat 64 e)
      (by rwa [hnat]) (.inr (by rw [hnat, he]))
    exact ⟨_, x, congrArg (Option.map _) he, hx⟩

/-- A read of an address that names something completes. -/
theorem State.exists_memRead {x : Target} (h : s.target ad = some x) :
    ∃ v t, s.memRead ad = some (v, t) := by
  unfold State.memRead
  rw [h]
  cases x with
  | reg | unmodelled | ext => exact ⟨_, _, rfl⟩

/-- A write to an address that names something completes. -/
theorem State.exists_memWrite {x : Target} (h : s.target ad = some x) (v : Word) :
    ∃ t, s.memWrite ad v = some t := by
  unfold State.memWrite
  rw [h]
  cases x with
  | reg | unmodelled | ext => exact ⟨_, rfl⟩

/-- A micro-op whose place is mapped completes. -/
theorem exists_runOp_eq_next {a : AgentId} {op : MicroOp} (hcfg : configOk s.cfg = true)
    (hbinding : s.bound = true → s.BaseOk) (h : ∀ p ∈ op.place, s.Maps (s.agent a) p) :
    ∃ t, runOp s a op = .next t := by
  cases op with
  | ld i p =>
    obtain ⟨ad, x, hplace, htarget⟩ := (h p rfl).exists_target hcfg hbinding
    obtain ⟨v, t, hread⟩ := State.exists_memRead htarget
    exact ⟨_, runLd_eq hplace hread⟩
  | st p e =>
    obtain ⟨ad, x, hplace, htarget⟩ := (h p rfl).exists_target hcfg hbinding
    obtain ⟨t, hwrite⟩ := State.exists_memWrite htarget (eval s.cfg (s.agent a) e)
    exact ⟨_, runSt_eq hplace hwrite⟩
  | set | ret | bindop | acq | rel | wait => exact ⟨_, rfl⟩

end

/-! ## Running agents in a step of the machine -/

section
variable {s t : State} {a b : AgentId}

/-- An id with a running command is an agent of the machine. -/
theorem State.lookup_of_running (h : (s.agent a).uprog ≠ []) :
    lookupAgent s.agents a = some (s.agent a) := by
  unfold State.agent at h ⊢
  cases hl : lookupAgent s.agents a with
  | none => exact absurd (by rw [hl]; rfl) h
  | some g => rfl

theorem State.Inv.running_agent (hinv : s.Inv) (h : (s.agent a).uprog ≠ []) :
    ∃ i, Running s a (s.agent a) i :=
  hinv.running a _ (State.lookup_of_running h) h

/-- Loading the latches of an idle agent sets no micro-program up (R103 part 1). -/
@[simp] theorem Agent.loadLatches_uprog (g : Agent) : g.loadLatches.uprog = g.uprog := by
  unfold Agent.loadLatches
  split <;> rfl

/-- The beginning of a step leaves every micro-program. -/
@[simp] theorem State.begin_uprog (s : State) (a b : AgentId) (rest : List AgentId) :
    ((s.begin a rest).agent b).uprog = (s.agent b).uprog := by
  unfold State.begin
  split
  · rw [State.agent_modAgent_keeps _ a b Agent.uprog Agent.loadLatches_uprog, State.agent, State.agent,
      State.sampleInput_agents]
  · rw [State.agent, State.agent, State.sampleInput_agents]

/-- The step of a running agent begins without a load of its latches. -/
theorem State.begin_agent_of_running (rest : List AgentId) (h : (s.agent a).uprog ≠ []) :
    (s.begin a rest).agent a = s.agent a := by
  unfold State.begin
  rw [if_neg (by simpa [Agent.idle] using h), State.agent, State.agent, State.sampleInput_agents]

/-- The beginning of a running agent's step leaves what is mapped for it. -/
theorem State.Maps.begin {p : Place} (h : s.Maps (s.agent a) p) (rest : List AgentId)
    (hrun : (s.agent a).uprog ≠ []) :
    (s.begin a rest).Maps ((s.begin a rest).agent a) p := by
  rw [State.begin_agent_of_running rest hrun]
  cases p with
  | reg | raw | fixup => simpa [State.Maps] using h

/-- R205: no step of the agent that moves stops at an address. Its current micro-op is one of the command
it runs, whose issue checks mapped the place. -/
theorem State.Inv.exec_begin_ne_fault (hinv : s.Inv) (hcfg : configOk s.cfg = true) (i : Instr)
    (rest : List AgentId) (r : Fault) : exec i (s.begin a rest) ≠ .fault r := by
  intro hfault
  rcases exec_cases i (s.begin a rest) with ⟨-, hexec⟩ | ⟨-, hexec⟩ | ⟨op, -, hrun, hop, hexec⟩
  · exact nomatch hexec.symm.trans hfault
  · exact nomatch hexec.symm.trans hfault
  · simp only [State.begin_turn, State.begin_uprog, State.currentOp] at hrun hop hexec
    rw [State.begin_agent_of_running rest hrun] at hop
    obtain ⟨j, hj⟩ := hinv.running_agent hrun
    have hmem : op ∈ program s.cfg j := hj.prog ▸ List.mem_of_getElem? hop
    have hmaps := program_accessesOnly_maps hj.admitted op hmem
    obtain ⟨t, ht⟩ := exists_runOp_eq_next (s := s.begin a rest) (a := a) (op := op)
      (by simpa using hcfg) (by simpa [State.BaseOk] using hinv.binding)
      (fun p hp => (hmaps p hp).begin rest hrun)
    exact nomatch (hexec.trans ht).symm.trans hfault

/-- What a stop of `step` with a fault can be: no agent moves, or the mover's micro-op stops. -/
theorem step_fault_cases {r : Fault} (h : step s = .fault r) :
    r = s.haltReason ∨
      configOk s.cfg = true ∧ ∃ a rest i, exec i (s.begin a rest) = .fault r := by
  unfold step at h
  split_ifs at h with hcfg hset
  split at h
  next => exact .inl (Host.Outcome.fault.inj h).symm
  next a rest _ =>
    split at h
    next i _ => exact .inr ⟨hcfg, a, rest, i, h⟩
    next => exact nomatch h

theorem State.haltReason_ne_noSuchAddress (s : State) : s.haltReason ≠ .noSuchAddress := by
  unfold State.haltReason
  split_ifs <;> exact nofun

/-! ## The fault record and the refusal mark of a running agent -/

theorem Agent.stopped_eq_false_iff (g : Agent) :
    g.stopped = false ↔ g.fault = none ∧ g.refused = none := by
  simp [Agent.stopped]

/-- Completing a micro-op stops no agent (R103). -/
@[simp] theorem Agent.advance_stopped (g : Agent) : g.advance.stopped = g.stopped := by
  unfold Agent.advance
  split <;> rfl

/-- A change of one agent's record that leaves its two marks, over a change of what is no agent's, stops
no agent. -/
theorem State.agent_modAgent_stopped {u : State} {f : Agent → Agent} (hagents : u.agents = s.agents)
    (hf : ∀ g, (f g).stopped = g.stopped) :
    ((u.modAgent a f).agent b).stopped = (s.agent b).stopped := by
  rw [State.agent_modAgent_keeps u a b Agent.stopped hf, State.agent, State.agent, hagents]

/-- A micro-op stops no agent (R205). -/
theorem runOp_stopped {op : MicroOp} (h : runOp s a op = .next t) :
    (t.agent b).stopped = (s.agent b).stopped := by
  cases op with
  | ld i p =>
    rcases runLd_cases s a i p with hfault | ⟨ad, v, u, -, hread, hnext⟩
    · exact nomatch hfault.symm.trans h
    · obtain rfl := Host.Outcome.next.inj (hnext.symm.trans h)
      rw [State.record_agent]
      exact State.agent_modAgent_stopped (State.memRead_frame hread).1
        (fun _ => Agent.advance_stopped _)
  | st p e =>
    rcases runSt_cases s a p e with hfault | ⟨ad, u, -, hwrite, hnext⟩
    · exact nomatch hfault.symm.trans h
    · obtain rfl := Host.Outcome.next.inj (hnext.symm.trans h)
      exact State.agent_modAgent_stopped (State.memWrite_frame hwrite).1 Agent.advance_stopped
  | set i e =>
    obtain rfl := Host.Outcome.next.inj h
    exact State.agent_modAgent_stopped rfl (fun _ => Agent.advance_stopped _)
  | ret e =>
    obtain rfl := Host.Outcome.next.inj h
    rw [State.record_agent]
    exact State.agent_modAgent_stopped rfl (fun _ => Agent.advance_stopped _)
  | bindop | acq | rel | wait =>
    obtain rfl := Host.Outcome.next.inj h
    exact State.agent_modAgent_stopped rfl Agent.advance_stopped

/-- A step of a command that its agent has already issued stops no agent. -/
theorem exec_stopped {i : Instr} (h : exec i s = .next t) (hrun : (s.agent s.turn).uprog ≠ []) :
    (t.agent b).stopped = (s.agent b).stopped := by
  rcases exec_cases i s with ⟨-, hexec⟩ | ⟨⟨-, hidle⟩, -⟩ | ⟨op, -, -, -, hexec⟩
  · obtain rfl := Host.Outcome.next.inj (hexec.symm.trans h)
    rfl
  · exact absurd (of_decide_eq_true hidle) hrun
  · exact runOp_stopped (hexec.symm.trans h)

/-- A running agent is not stopped by a step: it is another agent's step, or a micro-op of its own, since
its CMD latch still decodes to its command. -/
theorem State.Inv.step_running_stopped (hinv : s.Inv) (h : step s = .next t)
    (hrun : (s.agent a).uprog ≠ []) : (t.agent a).stopped = false := by
  obtain ⟨i, hi⟩ := hinv.running_agent hrun
  refine Eq.trans ?_ hi.live
  obtain ⟨m, rest, hmover, hm⟩ := step_stepOf h
  by_cases ham : a = m
  · subst ham
    have hagent := State.begin_agent_of_running rest hrun
    obtain ⟨m', rest', hmover', ⟨j, -, hexec⟩ | ⟨reason, hword, -⟩⟩ := step_cases h
    all_goals obtain ⟨rfl, rfl⟩ := Prod.mk.inj (Option.some.inj (hmover.symm.trans hmover'))
    · rw [exec_stopped hexec (by simpa using hrun), hagent]
    · rw [hagent, hi.word] at hword
      exact nomatch hword
  · rw [hm.agent_other a ham]

end

/-- Settles O52: the invariant maps every place a running command accesses, and keeps its CMD latch
decoding to it. -/
theorem admittedCommandsNeverFault : Obligations.AdmittedCommandsNeverFault := by
  intro s hinv
  refine ⟨fun hfault => ?noSuchAddress, fun t a hstep hrun => ?marks⟩
  case noSuchAddress =>
    rcases step_fault_cases hfault with hhalt | ⟨hcfg, a, rest, i, hexec⟩
    · exact s.haltReason_ne_noSuchAddress hhalt.symm
    · exact hinv.exec_begin_ne_fault hcfg i rest _ hexec
  case marks =>
    exact (Agent.stopped_eq_false_iff _).mp (hinv.step_running_stopped hstep hrun)

end Sys2Proof.Machine
end

section
/-! PROOFS of the family other, the command word: packing a word from its fields and reading the fields
back are inverse (R87), so decoding and encoding are (R88, R91). -/

namespace Sys2Proof

/-! ## The fields of a packed word -/

/-- A packed word, bit by bit (R87). -/
theorem getLsbD_packWord (opc : BitVec 4) (bus : BitVec 5) (off : Bool) (i : Nat) :
    (packWord opc bus off).getLsbD i =
      if i < 4 then opc.getLsbD i
      else if i - 4 < 5 then bus.getLsbD (i - 4)
      else decide (i - 4 - 5 = 0) && off := by
  have houter : (packWord opc bus off).getLsbD i =
      if i < 1 + (5 + 4) then (BitVec.ofBool off ++ (bus ++ opc)).getLsbD i
      else (0 : BitVec 22).getLsbD (i - (1 + (5 + 4))) := BitVec.getLsbD_append
  rw [houter, BitVec.getLsbD_append, BitVec.getLsbD_append, BitVec.getLsbD_ofBool]
  by_cases h4 : i < 4
  · simp [h4, show i < 1 + (5 + 4) by omega, show i < 5 + 4 by omega]
  · by_cases h9 : i - 4 < 5
    · simp [h4, h9, show i < 1 + (5 + 4) by omega, show i < 5 + 4 by omega]
    · simp [h4, h9, show ¬ i < 5 + 4 by omega, show i - (5 + 4) = i - 4 - 5 by omega]
      omega

@[simp] theorem busField_packWord (opc : BitVec 4) (bus : BitVec 5) (off : Bool) :
    busField (packWord opc bus off) = bus := by
  refine BitVec.eq_of_getLsbD_eq fun i hi => ?_
  simp [busField, getLsbD_packWord, hi, BitVec.getLsbD_eq_getElem]

@[simp] theorem offField_packWord (opc : BitVec 4) (bus : BitVec 5) (off : Bool) :
    offField (packWord opc bus off) = off := by
  rw [offField, getLsbD_packWord]
  simp

/-- A word whose reserved field is zero is its other three fields, packed. -/
theorem packWord_fields {w : Word} (h : reservedField w = 0) :
    packWord (opcField w) (busField w) (offField w) = w := by
  have hreserved : ∀ i, 10 ≤ i → w.getLsbD i = false := by
    intro i hi
    by_cases hlt : i < 32
    · have hbit := congrArg (fun v => BitVec.getLsbD v (i - 10)) h
      simpa [reservedField, show i - 10 < 22 by omega, show 10 + (i - 10) = i by omega] using hbit
    · exact BitVec.getLsbD_of_ge w i (by omega)
  refine BitVec.eq_of_getLsbD_eq fun i hi => ?_
  simp only [getLsbD_packWord, opcField, busField, offField, BitVec.getLsbD_extractLsb']
  by_cases h4 : i < 4
  · simp [h4]
  · by_cases h9 : i - 4 < 5
    · simp [h4, h9, show 4 + (i - 4) = i by omega]
    · by_cases h10 : i = 9
      · simp [h10]
      · simp [h4, h9, show i - 4 - 5 ≠ 0 by omega, hreserved i (by omega)]

/-- The fields BUS and OFF of a word whose bits 9:4 are zero. -/
theorem operands_of_operandField {w : Word} (h : operandField w = 0) :
    busField w = 0 ∧ offField w = false := by
  have hbit : ∀ i, i < 6 → w.getLsbD (4 + i) = false := by
    intro i hi
    have := congrArg (fun v => BitVec.getLsbD v i) h
    simpa [operandField, hi] using this
  refine ⟨BitVec.eq_of_getLsbD_eq fun i hi => ?_, hbit 5 (by omega)⟩
  simp [busField, hi, hbit i (by omega)]

/-! ## The opcode map and the encoder -/

/-- The word of every well-formed instruction keeps the layout of R87. -/
theorem encode_layout (i : Instr) : Laws.Encoding.Statement i := by
  cases i with
  | bind => exact Laws.Encoding.bind
  | getIspClock => exact Laws.Encoding.getIspClock
  | setIspClock => exact Laws.Encoding.setIspClock
  | getLpClock => exact Laws.Encoding.getLpClock
  | setLpClock => exact Laws.Encoding.setLpClock
  | getReset => exact Laws.Encoding.getReset
  | setReset => exact Laws.Encoding.setReset
  | toggleReset => exact Laws.Encoding.toggleReset
  | getIntStatus => exact Laws.Encoding.getIntStatus
  | getIntMask => exact Laws.Encoding.getIntMask
  | setIntMask => exact Laws.Encoding.setIntMask
  | bringup => exact Laws.Encoding.bringup
  | setAxiMode bus offline => exact Laws.Encoding.setAxiMode bus offline
  | rawRead => exact Laws.Encoding.rawRead
  | rawWriteMasked => exact Laws.Encoding.rawWriteMasked

/-- The opcode map reads a well-formed instruction back from the fields of its word (R88). -/
theorem opcodeMap_encode {i : Instr} (h : i.wf = true) :
    opcodeMap i.opcode (busField (encode i)) (offField (encode i)) = some i := by
  cases i with
  | setAxiMode bus off =>
    have hlt : bus < 32 := of_decide_eq_true h
    have hbus : (BitVec.ofNat 5 bus).toNat = bus := by
      rw [BitVec.toNat_ofNat, Nat.mod_eq_of_lt hlt]
    simp [encode, opcodeMap, Instr.opcode, hbus]
  | bind | getIspClock | setIspClock | getLpClock | setLpClock | getReset | setReset | toggleReset
  | getIntStatus | getIntMask | setIntMask | bringup | rawRead | rawWriteMasked => rfl

/-- An instruction of the opcode map is well-formed, and its word has the fields it was read from, when
only SET_AXI_MODE has operand bits (R87, R88). -/
theorem encode_of_opcodeMap {opc : BitVec 4} {bus : BitVec 5} {off : Bool} {i : Instr}
    (h : opcodeMap opc bus off = some i) (hoperand : opc ≠ 0xC → bus = 0 ∧ off = false) :
    i.wf = true ∧ encode i = packWord opc bus off := by
  unfold opcodeMap at h
  split at h
  case h_13 hopc =>
    obtain rfl := Option.some.inj h
    obtain rfl : opc = 0xC := BitVec.eq_of_toNat_eq hopc
    exact ⟨decide_eq_true bus.isLt, by simp [encode, Instr.opcode]⟩
  case h_16 => exact nomatch h
  all_goals
    next hopc =>
      obtain rfl := Option.some.inj h
      obtain ⟨rfl, rfl⟩ := hoperand (by rintro rfl; exact nomatch hopc)
      exact ⟨rfl, congrArg (packWord · 0 false) (BitVec.eq_of_toNat_eq hopc.symm)⟩

/-- What a word that decodes has: the instruction of its fields, no reserved bit, and operand bits only in
SET_AXI_MODE (R90, R91). -/
theorem fields_of_decode {w : Word} {i : Instr} (h : decode w = .op i) :
    opcodeMap (opcField w) (busField w) (offField w) = some i ∧ reservedField w = 0 ∧
      (opcField w ≠ 0xC → operandField w = 0) := by
  unfold decode at h
  split at h
  next => exact nomatch h
  next j hj =>
    split_ifs at h with hres hoperand
    obtain rfl := Decoded.op.inj h
    exact ⟨hj, not_not.mp hres, fun hopc => not_not.mp fun hne => hoperand ⟨hopc, hne⟩⟩

/-- Settles O2: the fields of the word are the instruction's opcode, operands and zeros. -/
theorem decodeOfEncodeIsTheInstruction : Obligations.DecodeOfEncodeIsTheInstruction := by
  intro i hwf
  obtain ⟨hopc, hres, hoperand⟩ := encode_layout i hwf
  have hmap := opcodeMap_encode hwf
  unfold decode
  rw [hopc, hmap]
  simp only [hres, ne_eq, not_true_eq_false, if_false]
  rw [if_neg fun hboth => hboth.2 (hoperand hboth.1)]

/-- Settles O3: the word is its fields packed, and so is the word of the instruction they spell. -/
theorem encodeOfDecodeIsTheWord : Obligations.EncodeOfDecodeIsTheWord := by
  intro w i h
  obtain ⟨hmap, hres, hoperand⟩ := fields_of_decode h
  obtain ⟨hwf, hword⟩ := encode_of_opcodeMap hmap fun hopc => operands_of_operandField (hoperand hopc)
  exact ⟨hwf, hword.trans (packWord_fields hres)⟩

/-- Settles O1: ten closed words, each run through the decoder. -/
theorem specWordsDecodeAsWritten : Obligations.SpecWordsDecodeAsWritten := by
  unfold Obligations.SpecWordsDecodeAsWritten
  decide

end Sys2Proof

namespace Sys2Proof.Machine

/-! ## Closed constants and lines -/

/-- Settles O6: the four constants, evaluated. -/
theorem derivedConstantsOfTheDefaultProfile : Obligations.DerivedConstantsOfTheDefaultProfile :=
  ⟨by decide, by decide, by decide, by decide⟩

/-- Settles O7: the four lines, assembled. -/
theorem assemblerLinesGiveTheirCommands : Obligations.AssemblerLinesGiveTheirCommands :=
  ⟨by decide, by decide, by decide, by decide⟩

/-- Settles O59: the two micro-programs, counted. -/
theorem guardedCommandsHaveTheirLengths : Obligations.GuardedCommandsHaveTheirLengths :=
  fun _ => ⟨rfl, rfl, rfl, rfl⟩

end Sys2Proof.Machine
end

section
/-! PROOFS of the family other, one micro-op: what each one changes and leaves (R100), and from it the
frames of a step of a command. -/

namespace Sys2Proof.Machine

/-! ## What no bus access changes -/

/-- The states agree on all but the registers, the fixup register and the draws. -/
structure State.SameButWords (s u : State) : Prop where
  cfg : u.cfg = s.cfg
  bound : u.bound = s.bound
  base : u.base = s.base
  guard : u.guard = s.guard
  agents : u.agents = s.agents
  history : u.history = s.history
  intSrc : u.intSrc = s.intSrc
  intIn : u.intIn = s.intIn
  turn : u.turn = s.turn
  turns : u.turns = s.turns
  tick : u.tick = s.tick

section
variable {a : AgentId} {s t u : State}

theorem State.SameButWords.refl (s : State) : s.SameButWords s :=
  ⟨rfl, rfl, rfl, rfl, rfl, rfl, rfl, rfl, rfl, rfl, rfl⟩

theorem State.memRead_sameButWords {ad : Addr} {v : Word} (h : s.memRead ad = some (v, u)) :
    s.SameButWords u := by
  rcases State.memRead_cases h with rfl | ⟨-, rfl⟩
  · exact .refl u
  · exact ⟨rfl, rfl, rfl, rfl, rfl, rfl, rfl, rfl, rfl, rfl, rfl⟩

theorem State.memWrite_sameButWords {ad : Addr} {v : Word} (h : s.memWrite ad v = some u) :
    s.SameButWords u := by
  rcases State.memWrite_cases h with ⟨r, -, rfl⟩ | ⟨-, rfl⟩ | ⟨-, rfl⟩
  · constructor <;> simp
  · exact .refl u
  · exact ⟨rfl, rfl, rfl, rfl, rfl, rfl, rfl, rfl, rfl, rfl, rfl⟩

/-- A read leaves the registers and the fixup register. -/
theorem State.memRead_words {ad : Addr} {v : Word} (h : s.memRead ad = some (v, u)) :
    u.csr = s.csr ∧ u.ext = s.ext := by
  rcases State.memRead_cases h with rfl | ⟨-, rfl⟩ <;> exact ⟨rfl, rfl⟩

/-! ## What a micro-op changes -/

/-- What a completed micro-op makes of its agent's record: the temporaries and RDATA may change, then the
counter moves on (R100, R103). -/
def Agent.CompletesOp (f : Agent → Agent) : Prop :=
  ∀ g, ∃ x v, f g = Agent.advance { g with tmp := x, rdata := v }

theorem Agent.completesOp_advance : Agent.CompletesOp Agent.advance := fun g => ⟨g.tmp, g.rdata, rfl⟩

/-- What the micro-op `op` of the agent `a` makes of `s`. -/
structure State.OpStep (s : State) (a : AgentId) (op : MicroOp) (t : State) : Prop where
  record : ∃ f, Agent.CompletesOp f ∧ t.agents = (s.modAgent a f).agents
  cfg : t.cfg = s.cfg
  sched : t.intSrc = s.intSrc ∧ t.intIn = s.intIn ∧ t.turn = s.turn ∧ t.turns = s.turns ∧
    t.tick = s.tick
  binding : op ≠ .bindop → t.bound = s.bound ∧ t.base = s.base
  binds : op = .bindop → t.bound = true ∧ t.base = (s.agent a).addr
  guard : op ≠ .acq → op ≠ .rel → t.guard = s.guard
  takes : op = .acq → t.guard = .held a
  frees : op = .rel → t.guard = .free
  words : (∀ p e, op ≠ .st p e) → t.csr = s.csr ∧ t.ext = s.ext

/-- A bus access and the completion of its micro-op. -/
theorem State.SameButWords.opStep {op : MicroOp} {f : Agent → Agent} {e : Event}
    (h : s.SameButWords u) (hf : Agent.CompletesOp f)
    (hwords : (∀ p e, op ≠ .st p e) → u.csr = s.csr ∧ u.ext = s.ext)
    (hbind : op ≠ .bindop := by nofun) (hacq : op ≠ .acq := by nofun) (hrel : op ≠ .rel := by nofun) :
    s.OpStep a op ((u.modAgent a f).record e) where
  record := ⟨f, hf, by simp [State.modAgent, h.agents]⟩
  cfg := h.cfg
  sched := ⟨h.intSrc, h.intIn, h.turn, h.turns, h.tick⟩
  binding _ := ⟨h.bound, h.base⟩
  binds heq := absurd heq hbind
  guard _ _ := h.guard
  takes heq := absurd heq hacq
  frees heq := absurd heq hrel
  words := hwords

theorem runOp_opStep {op : MicroOp} (h : runOp s a op = .next t) : s.OpStep a op t := by
  cases op with
  | ld i p =>
    rcases runLd_cases s a i p with hfault | ⟨ad, v, u, -, hread, hnext⟩
    · exact nomatch hfault.symm.trans h
    · obtain rfl := Host.Outcome.next.inj (hnext.symm.trans h)
      exact (State.memRead_sameButWords hread).opStep (fun g => ⟨_, g.rdata, rfl⟩)
        fun _ => State.memRead_words hread
  | st p e =>
    rcases runSt_cases s a p e with hfault | ⟨ad, u, -, hwrite, hnext⟩
    · exact nomatch hfault.symm.trans h
    · obtain rfl := Host.Outcome.next.inj (hnext.symm.trans h)
      exact (State.memWrite_sameButWords hwrite).opStep Agent.completesOp_advance
        fun hno => absurd rfl (hno p e)
  | set i e =>
    obtain rfl := Host.Outcome.next.inj h
    exact ⟨⟨_, fun g => ⟨_, g.rdata, rfl⟩, rfl⟩, rfl, ⟨rfl, rfl, rfl, rfl, rfl⟩, fun _ => ⟨rfl, rfl⟩,
      nofun, fun _ _ => rfl, nofun, nofun, fun _ => ⟨rfl, rfl⟩⟩
  | ret e =>
    obtain rfl := Host.Outcome.next.inj h
    exact (State.SameButWords.refl s).opStep (fun g => ⟨g.tmp, _, rfl⟩) fun _ => ⟨rfl, rfl⟩
  | wait us =>
    obtain rfl := Host.Outcome.next.inj h
    exact (State.SameButWords.refl s).opStep Agent.completesOp_advance fun _ => ⟨rfl, rfl⟩
  | bindop =>
    obtain rfl := Host.Outcome.next.inj h
    exact ⟨⟨_, Agent.completesOp_advance, rfl⟩, rfl, ⟨rfl, rfl, rfl, rfl, rfl⟩, fun hne => absurd rfl hne,
      fun _ => ⟨rfl, rfl⟩, fun _ _ => rfl, nofun, nofun, fun _ => ⟨rfl, rfl⟩⟩
  | acq =>
    obtain rfl := Host.Outcome.next.inj h
    exact ⟨⟨_, Agent.completesOp_advance, rfl⟩, rfl, ⟨rfl, rfl, rfl, rfl, rfl⟩, fun _ => ⟨rfl, rfl⟩,
      nofun, fun hne => absurd rfl hne, fun _ => rfl, nofun, fun _ => ⟨rfl, rfl⟩⟩
  | rel =>
    obtain rfl := Host.Outcome.next.inj h
    exact ⟨⟨_, Agent.completesOp_advance, rfl⟩, rfl, ⟨rfl, rfl, rfl, rfl, rfl⟩, fun _ => ⟨rfl, rfl⟩,
      nofun, fun _ hne => absurd rfl hne, nofun, fun _ => rfl, fun _ => ⟨rfl, rfl⟩⟩

/-! ## What a completed micro-op leaves of its agent's record -/

/-- What of a record no step of a command changes: the program, the four latches, the refusal mark. -/
def Agent.fixedPart (g : Agent) : List Command × Word × Word × Word × Addr × Option RefuseReason :=
  (g.prog, g.cmd, g.data, g.mask, g.addr, g.refused)

theorem Agent.CompletesOp.fixedPart {f : Agent → Agent} (hf : Agent.CompletesOp f) (g : Agent) :
    (f g).fixedPart = g.fixedPart := by
  obtain ⟨x, v, hfg⟩ := hf g
  rw [hfg, Agent.advance]
  split <;> rfl

/-- A micro-op that is not the last moves the counter on. -/
theorem Agent.CompletesOp.not_last {f : Agent → Agent} (hf : Agent.CompletesOp f) {g : Agent}
    (hlast : g.upc + 1 ≠ g.uprog.length) :
    (f g).uprog = g.uprog ∧ (f g).upc = g.upc + 1 ∧ (f g).cpc = g.cpc := by
  obtain ⟨x, v, hfg⟩ := hf g
  rw [hfg, Agent.advance, if_neg hlast]
  exact ⟨rfl, rfl, rfl⟩

/-- The last micro-op ends the command. -/
theorem Agent.CompletesOp.last {f : Agent → Agent} (hf : Agent.CompletesOp f) {g : Agent}
    (hlast : g.upc + 1 = g.uprog.length) :
    (f g).uprog = [] ∧ (f g).upc = g.upc + 1 ∧ (f g).cpc = g.cpc + 1 := by
  obtain ⟨x, v, hfg⟩ := hf g
  rw [hfg, Agent.advance, if_pos hlast]
  exact ⟨rfl, rfl, rfl⟩

theorem Agent.CompletesOp.stopped {f : Agent → Agent} (hf : Agent.CompletesOp f) (g : Agent) :
    (f g).stopped = g.stopped := by
  obtain ⟨x, v, hfg⟩ := hf g
  rw [hfg, Agent.advance_stopped]
  rfl

/-- The record of a running agent after its micro-op. -/
theorem State.OpStep.agent_self {op : MicroOp} (h : s.OpStep a op t) (hrun : (s.agent a).uprog ≠ []) :
    ∃ f, Agent.CompletesOp f ∧ t.agent a = f (s.agent a) := by
  obtain ⟨f, hf, hagents⟩ := h.record
  refine ⟨f, hf, ?_⟩
  have hself := State.agent_modAgent_self s a f (by simp [State.lookup_of_running hrun])
  rw [← hself, State.agent, State.agent, hagents]

end

end Sys2Proof.Machine
end

section
/-! PROOFS of the family other, the micro-programs: where ACQ, REL and BINDOP stand (R105, R140), and what
a step of a command may change by it. -/

namespace Sys2Proof.Machine

/-! ## ACQ, REL and BINDOP in the micro-programs -/

/-- The micro-op touches neither the guard nor the binding. -/
def MicroOp.isLocal : MicroOp → Bool
  | .ld _ _ => true
  | .st _ _ => true
  | .set _ _ => true
  | .ret _ => true
  | .bindop => false
  | .acq => false
  | .rel => false
  | .wait _ => true

/-- TOGGLE_RESET between its ACQ and its REL (R150). -/
def toggleBody : List MicroOp :=
  readRst ++ [.set .x2 (.or rstRead .mask)] ++ setRst (.x .x2) ++ [.wait tSettleUs] ++
    [.set .x2 (.and (.x .x2) (.not .mask))] ++ setRst (.x .x2)

/-- BRINGUP between its ACQ and its REL (R155, R163). -/
def bringupBody (c : Config) : List MicroOp :=
  bringupStep1 c ++ bringupStep2 c ++ bringupRelease c 0x2 (rstmAxi c) ++
    bringupRelease c 0x1 (rstmIsp c) ++ bringupRelease c 0xC (rstmCsi0 c ||| rstmCsi1 c) ++
    bringupStep6 c ++ bringupStep7

theorem toggleResetProg_eq : toggleResetProg = .acq :: (toggleBody ++ [.rel]) := rfl

theorem bringupProg_eq (c : Config) : bringupProg c = .acq :: (bringupBody c ++ [.rel]) := rfl

theorem toggleBody_isLocal : ∀ op ∈ toggleBody, op.isLocal = true := List.all_eq_true.mp rfl

theorem bringupBody_isLocal (c : Config) : ∀ op ∈ bringupBody c, op.isLocal = true :=
  List.all_eq_true.mp rfl

/-- A guarded command is ACQ, a body that touches neither guard nor binding, and REL (R140). -/
theorem program_guarded (c : Config) {i : Instr} (hi : guarded i = true) :
    ∃ p, program c i = .acq :: (p ++ [.rel]) ∧ ∀ op ∈ p, op.isLocal = true := by
  cases i with
  | toggleReset => exact ⟨toggleBody, toggleResetProg_eq, toggleBody_isLocal⟩
  | bringup => exact ⟨bringupBody c, bringupProg_eq c, bringupBody_isLocal c⟩
  | bind | getIspClock | setIspClock | getLpClock | setLpClock | getReset | setReset | getIntStatus
  | getIntMask | setIntMask | setAxiMode | rawRead | rawWriteMasked => exact nomatch hi

/-- A command that is neither guarded nor BIND touches neither the guard nor the binding. -/
theorem program_isLocal (c : Config) {i : Instr} (hi : guarded i = false) (hbind : i ≠ .bind) :
    ∀ op ∈ program c i, op.isLocal = true := by
  cases i with
  | bind => exact absurd rfl hbind
  | toggleReset | bringup => exact nomatch hi
  | getIspClock | setIspClock | getLpClock | setLpClock | getReset | setReset | getIntStatus
  | getIntMask | setIntMask | setAxiMode | rawRead | rawWriteMasked =>
    exact List.all_eq_true.mp rfl

/-- ACQ is the first micro-op of a guarded command and stands nowhere else (R140). -/
theorem program_getElem?_eq_acq {c : Config} {i : Instr} {k : Nat} :
    (program c i)[k]? = some .acq ↔ guarded i = true ∧ k = 0 := by
  cases hi : guarded i with
  | true =>
    obtain ⟨p, hp, hlocal⟩ := program_guarded c hi
    rw [hp]
    cases k with
    | zero => simp
    | succ k =>
      have hnot : (p ++ [MicroOp.rel])[k]? ≠ some .acq := fun h => by
        rcases List.mem_append.mp (List.mem_of_getElem? h) with hmem | hmem
        · exact nomatch hlocal _ hmem
        · simp at hmem
      simpa using hnot
  | false =>
    refine ⟨fun h => ?_, fun h => nomatch h.1⟩
    have hmem := List.mem_of_getElem? h
    by_cases hbind : i = .bind
    · subst hbind
      simp [program, bindProg] at hmem
    · exact nomatch program_isLocal c hi hbind _ hmem

/-- REL is the last micro-op of a guarded command and stands nowhere else (R140). -/
theorem program_getElem?_eq_rel {c : Config} {i : Instr} {k : Nat} :
    (program c i)[k]? = some .rel ↔ guarded i = true ∧ k + 1 = (program c i).length := by
  cases hi : guarded i with
  | true =>
    obtain ⟨p, hp, hlocal⟩ := program_guarded c hi
    rw [hp]
    cases k with
    | zero => simp
    | succ k =>
      rcases Nat.lt_trichotomy k p.length with hlt | rfl | hgt
      · have hnot : p[k]? ≠ some .rel := fun h => nomatch hlocal _ (List.mem_of_getElem? h)
        simpa [List.getElem?_append_left hlt, hlt.ne] using hnot
      · simp
      · simp [List.getElem?_append_right hgt.le, Nat.sub_ne_zero_of_lt hgt, hgt.ne']
  | false =>
    refine ⟨fun h => ?_, fun h => nomatch h.1⟩
    have hmem := List.mem_of_getElem? h
    by_cases hbind : i = .bind
    · subst hbind
      simp [program, bindProg] at hmem
    · exact nomatch program_isLocal c hi hbind _ hmem

/-- BINDOP stands in BIND only (R105). -/
theorem bindop_mem_program {c : Config} {i : Instr} (h : MicroOp.bindop ∈ program c i) : i = .bind := by
  by_contra hbind
  cases hi : guarded i with
  | true =>
    obtain ⟨p, hp, hlocal⟩ := program_guarded c hi
    rw [hp] at h
    simp only [List.mem_cons, List.mem_append, List.not_mem_nil, or_false, reduceCtorEq, false_or] at h
    exact nomatch hlocal _ h
  | false => exact nomatch program_isLocal c hi hbind _ h

/-! ## A step of a command -/

section
variable {i : Instr} {s t : State}

/-- The issue step changes the agent's record and the history only (R103, R200). -/
theorem issue_eq (s : State) (a : AgentId) (check : Option FaultCode) (prog : List MicroOp) :
    ∃ l es, issue s a check prog = { s with agents := l, history := es } := by
  cases check with
  | none => exact ⟨_, _, rfl⟩
  | some code => exact ⟨_, _, rfl⟩

/-- What a step of a command changes: records and history only, or what its current micro-op does. -/
theorem exec_op_cases (h : exec i s = .next t) :
    (∃ l es, t = { s with agents := l, history := es }) ∨
      ∃ op, s.currentOp = some op ∧ runOp s s.turn op = .next t := by
  rcases exec_cases i s with ⟨-, hexec⟩ | ⟨-, hexec⟩ | ⟨op, -, -, hop, hexec⟩
  · obtain rfl := Host.Outcome.next.inj (hexec.symm.trans h)
    exact .inl ⟨_, _, rfl⟩
  · obtain rfl := Host.Outcome.next.inj (hexec.symm.trans h)
    exact .inl (issue_eq _ _ _ _)
  · exact .inr ⟨op, hop, hexec.symm.trans h⟩

theorem exec_cfg (h : exec i s = .next t) : t.cfg = s.cfg := by
  rcases exec_op_cases h with ⟨l, es, rfl⟩ | ⟨op, -, hrun⟩
  · rfl
  · exact (runOp_opStep hrun).cfg

/-- No step of a command moves the input, the turn or the counters of the schedule. -/
theorem exec_sched (h : exec i s = .next t) :
    t.intSrc = s.intSrc ∧ t.intIn = s.intIn ∧ t.turn = s.turn ∧ t.turns = s.turns ∧
      t.tick = s.tick := by
  rcases exec_op_cases h with ⟨l, es, rfl⟩ | ⟨op, -, hrun⟩
  · exact ⟨rfl, rfl, rfl, rfl, rfl⟩
  · exact (runOp_opStep hrun).sched

/-- No command but BIND changes the binding (R35). -/
theorem exec_binding (hbind : i ≠ .bind) (hon : s.OnCommand i) (h : exec i s = .next t) :
    t.bound = s.bound ∧ t.base = s.base := by
  rcases exec_op_cases h with ⟨l, es, rfl⟩ | ⟨op, hop, hrun⟩
  · exact ⟨rfl, rfl⟩
  · refine (runOp_opStep hrun).binding ?_
    rintro rfl
    exact hbind (bindop_mem_program (State.currentOp_mem_program hon hop))

/-- No step of a command unbinds the window (R232). -/
theorem exec_bound (h : exec i s = .next t) (hb : s.bound = true) : t.bound = true := by
  rcases exec_op_cases h with ⟨l, es, rfl⟩ | ⟨op, -, hrun⟩
  · exact hb
  · have hop := runOp_opStep hrun
    by_cases hbind : op = .bindop
    · exact (hop.binds hbind).1
    · exact (hop.binding hbind).1.trans hb

/-- No command but a guarded one changes the guard (R140). -/
theorem exec_guard (hi : guarded i = false) (hon : s.OnCommand i) (h : exec i s = .next t) :
    t.guard = s.guard := by
  rcases exec_op_cases h with ⟨l, es, rfl⟩ | ⟨op, hop, hrun⟩
  · rfl
  · have hmem := State.currentOp_mem_program hon hop
    obtain ⟨k, hk⟩ := List.mem_iff_getElem?.mp hmem
    refine (runOp_opStep hrun).guard ?_ ?_
    · rintro rfl
      exact absurd (program_getElem?_eq_acq.mp hk).1 (by simp [hi])
    · rintro rfl
      exact absurd (program_getElem?_eq_rel.mp hk).1 (by simp [hi])

theorem issue_fixedPart (s : State) (a : AgentId) (check : Option FaultCode) (prog : List MicroOp) :
    ((issue s a check prog).agent a).fixedPart = (s.agent a).fixedPart := by
  cases check with
  | none =>
    exact State.agent_modAgent_keeps s a a (f := fun g => { g with uprog := prog, upc := 0 })
      Agent.fixedPart fun _ => rfl
  | some code =>
    exact State.agent_modAgent_keeps s a a (f := fun g => { g with fault := some code })
      Agent.fixedPart fun _ => rfl

/-- A step of a command leaves the program, the latches and the refusal mark of its agent (R32, R33). -/
theorem exec_fixedPart (h : exec i s = .next t) :
    (t.agent s.turn).fixedPart = (s.agent s.turn).fixedPart := by
  rcases exec_cases i s with ⟨-, hexec⟩ | ⟨-, hexec⟩ | ⟨op, -, hrun, -, hexec⟩
  · obtain rfl := Host.Outcome.next.inj (hexec.symm.trans h)
    rfl
  · obtain rfl := Host.Outcome.next.inj (hexec.symm.trans h)
    exact issue_fixedPart s s.turn _ _
  · obtain ⟨f, hf, hself⟩ := (runOp_opStep (hexec.symm.trans h)).agent_self hrun
    rw [hself, hf.fixedPart]

end

/-- Settles O41: BINDOP stands in BIND only and sets `bound`; no other micro-op and no issue step touches
the binding. -/
theorem onlyBindWritesTheBinding : Obligations.OnlyBindWritesTheBinding := by
  refine ⟨fun i s t hbind hon h => exec_binding hbind hon h, fun s t h hb => ?_⟩
  obtain ⟨a, rest, -, ⟨i, -, hexec⟩ | ⟨reason, -, rfl⟩⟩ := step_cases h
  · exact exec_bound hexec ((s.begin_bound a rest).trans hb)
  · exact (s.begin_bound a rest).trans hb

/-- Settles O42: the shape of the two guarded micro-programs, and no ACQ or REL in the others. -/
theorem onlyGuardedCommandsTouchTheGuard : Obligations.OnlyGuardedCommandsTouchTheGuard := by
  refine ⟨fun i => ?_, fun c i hi => ?_, fun i s t hi hon h => exec_guard hi hon h⟩
  · cases i <;> simp [guarded]
  · obtain ⟨p, hp, hlocal⟩ := program_guarded c hi
    exact ⟨p, hp, fun hacq => absurd (hlocal _ hacq) nofun, fun hrel => absurd (hlocal _ hrel) nofun⟩

/-! ## Other agents -/

section
variable {s : State}

@[simp] theorem Agent.loadLatches_prog (g : Agent) : g.loadLatches.prog = g.prog := by
  unfold Agent.loadLatches
  split <;> rfl

/-- The beginning of a step leaves every program (R33). -/
theorem State.begin_prog (s : State) (a b : AgentId) (rest : List AgentId) :
    ((s.begin a rest).agent b).prog = (s.agent b).prog := by
  unfold State.begin
  split
  · rw [State.agent_modAgent_keeps _ a b Agent.prog Agent.loadLatches_prog, State.agent, State.agent,
      State.sampleInput_agents]
  · rw [State.agent, State.agent, State.sampleInput_agents]

theorem State.refuse_prog (s : State) (a : AgentId) (reason : RefuseReason) :
    ((s.refuse a reason).agent a).prog = (s.agent a).prog :=
  State.agent_modAgent_keeps s a a (f := fun g => { g with refused := some reason })
    Agent.prog fun _ => rfl

end

/-- A step of the machine leaves every program and the configuration, and `turn` names the mover. -/
theorem step_fixed {s t : State} (h : step s = .next t) :
    t.cfg = s.cfg ∧ (∀ b, (t.agent b).prog = (s.agent b).prog) ∧
      ∃ a rest, s.mover = some (a, rest) ∧ t.turn = a ∧ ∀ b, b ≠ a → t.agent b = s.agent b := by
  obtain ⟨m, rest, hmover, hm⟩ := step_stepOf h
  obtain ⟨a, rest', hmover', hcase⟩ := step_cases h
  obtain ⟨rfl, rfl⟩ := Prod.mk.inj (Option.some.inj (hmover.symm.trans hmover'))
  have hmine : t.cfg = s.cfg ∧ t.turn = m ∧ (t.agent m).prog = (s.agent m).prog := by
    rcases hcase with ⟨i, -, hexec⟩ | ⟨reason, -, rfl⟩
    · obtain ⟨-, -, hturn, -⟩ := exec_sched hexec
      have hprog := congrArg Prod.fst (exec_fixedPart hexec)
      rw [State.begin_turn] at hturn hprog
      exact ⟨(exec_cfg hexec).trans (s.begin_cfg m rest), hturn, hprog.trans (s.begin_prog m m rest)⟩
    · exact ⟨s.begin_cfg m rest, s.begin_turn m rest,
        ((s.begin m rest).refuse_prog m reason).trans (s.begin_prog m m rest)⟩
  obtain ⟨hcfg, hturn, hprog⟩ := hmine
  refine ⟨hcfg, fun b => ?_, m, rest, hmover, hturn, hm.agent_other⟩
  by_cases hb : b = m
  · exact hb ▸ hprog
  · rw [hm.agent_other b hb]

/-- Settles O43: the step is one agent's, and of its own record a part stays. -/
theorem stepsLeaveOtherAgentsAlone : Obligations.StepsLeaveOtherAgentsAlone := by
  refine ⟨fun i s t h => ?_, fun s t h => step_fixed h⟩
  have hfixed := exec_fixedPart h
  simp only [Agent.fixedPart, Prod.mk.injEq] at hfixed
  exact ⟨(exec_stepOf h).agent_other, exec_cfg h, hfixed⟩

/-! ## The history -/

/-- Settles O44: the step is one agent's, and its LD or ST names the place and the value it records. -/
theorem eachAccessIsRecordedOnce : Obligations.EachAccessIsRecordedOnce := by
  intro i s t henabled h
  refine ⟨(exec_stepOf h).history_append, fun x p hrun hop => ?_, fun p e hrun hop => ?_⟩
  · have hld : runLd s s.turn x p = .next t := (exec_running henabled hrun hop).symm.trans h
    rcases runLd_cases s s.turn x p with hfault | ⟨ad, v, u, hplace, hread, hnext⟩
    · exact nomatch hfault.symm.trans hld
    · obtain rfl := Host.Outcome.next.inj (hnext.symm.trans hld)
      exact ⟨ad, v, hplace, congrArg (· ++ [_]) (State.memRead_frame hread).2⟩
  · have hst : runSt s s.turn p e = .next t := (exec_running henabled hrun hop).symm.trans h
    rcases runSt_cases s s.turn p e with hfault | ⟨ad, u, hplace, hwrite, hnext⟩
    · exact nomatch hfault.symm.trans hst
    · obtain rfl := Host.Outcome.next.inj (hnext.symm.trans hst)
      exact ⟨ad, hplace, congrArg (· ++ [_]) (State.memWrite_frame hwrite).2⟩

end Sys2Proof.Machine
end

section
/-! PROOFS of the family other, the invariant: one lemma for a step that changes one agent's record, then
the issue step, the micro-ops and the refusal as uses of it. -/

namespace Sys2Proof.Machine

section
variable {s t : State} {a b : AgentId} {g : Agent} {i : Instr}

/-! ## Running commands and the binding -/

/-- What the issue checks left true stays true while the window stays bound and the latch ADDR stays. -/
theorem Admitted.mono {g' : Agent} (h : Admitted s g i) (haddr : g'.addr = g.addr)
    (hcfg : t.cfg = s.cfg) (hbound : s.bound = true → t.bound = true) : Admitted t g' i := by
  cases i with
  | bind => simpa [Admitted, hcfg, haddr] using h
  | bringup | rawRead | rawWriteMasked => simpa [Admitted, hcfg, haddr] using h.imp_left hbound
  | getIspClock | setIspClock | getLpClock | setLpClock | getReset | setReset | toggleReset
  | getIntStatus | getIntMask | setIntMask | setAxiMode => exact hbound h

/-- A running agent runs on in a state that keeps the configuration, the binding and its hold. -/
theorem Running.mono (h : Running s a g i) (hcfg : t.cfg = s.cfg)
    (hbound : s.bound = true → t.bound = true) (hheld : s.guard = .held a → t.guard = .held a) :
    Running t a g i where
  word := h.word
  prog := hcfg ▸ h.prog
  inside := h.inside
  live := h.live
  left := h.left
  admitted := h.admitted.mono rfl hcfg hbound
  holds hguarded hpos := hheld (h.holds hguarded hpos)

theorem Running.uprog_ne_nil (h : Running s a g i) : g.uprog ≠ [] :=
  List.ne_nil_of_length_pos (Nat.zero_lt_of_lt h.inside)

/-- A running agent runs one command. -/
theorem Running.unique {j : Instr} (h : Running s a g i) (h' : Running t b g j) : i = j :=
  Decoded.op.inj (h.word.symm.trans h'.word)

/-! ## A step that changes one agent's record -/

theorem State.lookup_of_agents_eq {f : Agent → Agent} (hg : lookupAgent s.agents a = some g)
    (hagents : t.agents = (s.modAgent a f).agents) :
    lookupAgent t.agents a = some (f g) ∧
      ∀ b, b ≠ a → lookupAgent t.agents b = lookupAgent s.agents b := by
  rw [hagents]
  refine ⟨?_, fun b hb => State.lookup_modAgent_other s a b f hb⟩
  rw [State.lookup_modAgent_self, hg]
  rfl

/-- The invariant after a step that changes one agent's record: the binding stays good, the other agents
keep their hold, and the changed record is in order. -/
theorem State.Inv.of_record {f : Agent → Agent} (hinv : s.Inv) (hg : lookupAgent s.agents a = some g)
    (hagents : t.agents = (s.modAgent a f).agents) (hcfg : t.cfg = s.cfg)
    (hbound : s.bound = true → t.bound = true) (hbase : t.bound = true → t.BaseOk)
    (hguard : ∀ b, b ≠ a → (s.guard = .held b ↔ t.guard = .held b))
    (hindex : (f g).cpc ≤ (f g).prog.length)
    (hrunning : (f g).uprog ≠ [] → ∃ i, Running t a (f g) i)
    (hholder : t.guard = .held a → ∃ i, Running t a (f g) i ∧ guarded i = true ∧ 0 < (f g).upc) :
    t.Inv := by
  obtain ⟨hself, hother⟩ := State.lookup_of_agents_eq hg hagents
  refine ⟨?keys, hbase, fun b h hb => ?index, fun b h hb hne => ?running, fun b hb => ?holder⟩
  case keys => rw [hagents, State.modAgent_ids, hinv.keys, hcfg]
  case index =>
    by_cases hba : b = a
    · subst hba
      obtain rfl := Option.some.inj (hself.symm.trans hb)
      exact hindex
    · exact hinv.index b h (hother b hba ▸ hb)
  case running =>
    by_cases hba : b = a
    · subst hba
      obtain rfl := Option.some.inj (hself.symm.trans hb)
      exact hrunning hne
    · obtain ⟨i, hi⟩ := hinv.running b h (hother b hba ▸ hb) hne
      exact ⟨i, hi.mono hcfg hbound (hguard b hba).mp⟩
  case holder =>
    by_cases hba : b = a
    · subst hba
      obtain ⟨i, hi, hrest⟩ := hholder hb
      exact ⟨f g, i, hself, hi, hrest⟩
    · obtain ⟨h, i, hh, hi, hrest⟩ := hinv.holder b ((hguard b hba).mpr hb)
      exact ⟨h, i, (hother b hba).trans hh, hi.mono hcfg hbound (hguard b hba).mp, hrest⟩

/-- The agents, the configuration, the binding and the guard are all the invariant speaks of. -/
theorem State.Inv.of_same (hinv : s.Inv) (hagents : t.agents = s.agents) (hcfg : t.cfg = s.cfg)
    (hbound : t.bound = s.bound) (hbase : t.base = s.base) (hguard : t.guard = s.guard) : t.Inv := by
  have hmono : ∀ {b h i}, Running s b h i → Running t b h i := fun hi =>
    hi.mono hcfg (hbound ▸ ·) (hguard ▸ ·)
  refine ⟨by rw [hagents, hcfg, hinv.keys], ?binding, hagents ▸ hinv.index, fun b h hb hne => ?running,
    fun b hb => ?holder⟩
  case binding => simpa only [State.BaseOk, hbound, hbase, hcfg] using hinv.binding
  case running =>
    obtain ⟨i, hi⟩ := hinv.running b h (hagents ▸ hb) hne
    exact ⟨i, hmono hi⟩
  case holder =>
    obtain ⟨h, i, hh, hi, hrest⟩ := hinv.holder b (hguard ▸ hb)
    exact ⟨h, i, hagents ▸ hh, hmono hi, hrest⟩

/-- An idle agent does not hold the guard. -/
theorem State.Inv.not_held_of_idle (hinv : s.Inv) (hg : lookupAgent s.agents a = some g)
    (hidle : g.uprog = []) : s.guard ≠ .held a := by
  intro hheld
  obtain ⟨g', i, hg', hi, -⟩ := hinv.holder a hheld
  obtain rfl := Option.some.inj (hg.symm.trans hg')
  exact hi.uprog_ne_nil hidle

/-- The invariant after a change of an idle agent's record that leaves it idle and its index in place. -/
theorem State.Inv.of_idle {f : Agent → Agent} (hinv : s.Inv) (hg : lookupAgent s.agents a = some g)
    (hidle : g.uprog = []) (hagents : t.agents = (s.modAgent a f).agents) (hcfg : t.cfg = s.cfg)
    (hbound : t.bound = s.bound) (hbase : t.base = s.base) (hguard : t.guard = s.guard)
    (hf : (f g).uprog = [] ∧ (f g).cpc = g.cpc ∧ (f g).prog = g.prog) : t.Inv := by
  obtain ⟨huprog, hcpc, hprog⟩ := hf
  refine hinv.of_record hg hagents hcfg (hbound ▸ ·) ?_ (fun b _ => by rw [hguard]) ?_
    (absurd huprog) fun hheld => absurd (hguard ▸ hheld) (hinv.not_held_of_idle hg hidle)
  · simpa only [State.BaseOk, hbound, hbase, hcfg] using hinv.binding
  · rw [hcpc, hprog]
    exact hinv.index a g hg

/-! ## The parts of a step -/

@[simp] theorem Agent.loadLatches_cpc (g : Agent) : g.loadLatches.cpc = g.cpc := by
  unfold Agent.loadLatches
  split <;> rfl

theorem State.Inv.begin (hinv : s.Inv) (hg : lookupAgent s.agents a = some g) (rest : List AgentId) :
    (s.begin a rest).Inv := by
  by_cases hidle : (s.agent a).uprog = []
  · have hagents : (s.begin a rest).agents = (s.modAgent a Agent.loadLatches).agents := by
      unfold State.begin
      rw [if_pos (by simpa [Agent.idle] using hidle), State.modAgent, State.modAgent,
        State.sampleInput_agents]
    refine hinv.of_idle hg (by simpa [State.agent, hg] using hidle) hagents (s.begin_cfg a rest)
      (s.begin_bound a rest) (s.begin_base a rest) (s.begin_guard a rest) ?_
    exact ⟨by simpa [State.agent, hg] using hidle, by simp, by simp⟩
  · have hagents : (s.begin a rest).agents = s.agents := by
      unfold State.begin
      rw [if_neg (by simpa [Agent.idle] using hidle), State.sampleInput_agents]
    exact hinv.of_same hagents (s.begin_cfg a rest) (s.begin_bound a rest) (s.begin_base a rest)
      (s.begin_guard a rest)

theorem program_ne_nil (c : Config) (i : Instr) : program c i ≠ [] := by cases i <;> exact nofun

/-- The checks of a command passed, so what they check holds (R202). -/
theorem admitted_of_precondition (h : precondition s i = none) : Admitted s (s.agent s.turn) i := by
  cases i with
  | getIspClock | setIspClock | getLpClock | setLpClock | getReset | setReset | toggleReset
  | getIntStatus | getIntMask | setIntMask =>
    simpa [precondition, State.checkBound, Admitted] using h
  | bind =>
    revert h
    simp only [precondition, bindCheck, State.checkUnbound, checkAligned, State.checkBaseFits, Admitted]
    split_ifs <;> simp_all [firstFault]
  | rawRead | rawWriteMasked =>
    revert h
    simp only [precondition, rawCheck, State.checkBound, checkAligned, State.checkOffset, Admitted]
    split_ifs <;> simp_all [firstFault]
  | bringup =>
    revert h
    simp only [precondition, bringupCheck, State.checkBound, State.checkFixup, Admitted]
    cases s.cfg.extFixupAddr <;> split_ifs <;> simp_all [firstFault]
  | setAxiMode bus off =>
    revert h
    simp only [precondition, setAxiModeCheck, State.checkBound, State.checkBus, Admitted]
    split_ifs <;> simp_all [firstFault]

/-- A ready agent is live and has a command left. -/
theorem State.Ready.agent (h : s.Ready) : (s.agent s.turn).stopped = false ∧
    (s.agent s.turn).uprog = [] ∧ (s.agent s.turn).cpc < (s.agent s.turn).prog.length := by
  obtain ⟨henabled, hidle⟩ := h
  rw [State.enabled_eq (State.lookup_of_enabled henabled)] at henabled
  simp only [Bool.and_eq_true, Bool.not_eq_true', State.hasWork, hidle, if_true,
    decide_eq_true_eq] at henabled
  exact ⟨henabled.1.1, of_decide_eq_true hidle, henabled.2⟩

theorem State.Inv.issue (hinv : s.Inv) (hready : s.Ready)
    (hword : decode (s.agent s.turn).cmd = .op i) :
    (issue s s.turn (precondition s i) (program s.cfg i)).Inv := by
  have hg := State.lookup_of_enabled hready.1
  obtain ⟨hlive, hidle, hleft⟩ := hready.agent
  cases hpre : precondition s i with
  | some code =>
    exact hinv.of_idle hg hidle (f := fun g => { g with fault := some code }) rfl rfl rfl rfl rfl
      ⟨hidle, rfl, rfl⟩
  | none =>
    refine hinv.of_record hg (f := fun g => { g with uprog := program s.cfg i, upc := 0 }) rfl rfl id
      hinv.binding (fun _ _ => Iff.rfl) hleft.le (fun _ => ⟨i, ?_⟩)
      fun hheld => absurd hheld (hinv.not_held_of_idle hg hidle)
    exact {
      word := hword
      prog := rfl
      inside := List.length_pos_iff.mpr (program_ne_nil s.cfg i)
      live := hlive
      left := hleft
      admitted := (admitted_of_precondition hpre).mono rfl rfl id
      holds := fun _ hpos => absurd hpos (Nat.lt_irrefl 0) }

/-- The record of a running agent after a micro-op that is not its last: it runs on, holding the guard if
it did or has just taken it. -/
theorem Running.advance {f : Agent → Agent} (h : Running s a g i) (hf : Agent.CompletesOp f)
    (hcfg : t.cfg = s.cfg) (hbound : s.bound = true → t.bound = true)
    (hholds : guarded i = true → t.guard = .held a) (hlast : g.upc + 1 ≠ g.uprog.length) :
    Running t a (f g) i := by
  obtain ⟨huprog, hupc, hcpc⟩ := hf.not_last hlast
  have hfixed := hf.fixedPart g
  simp only [Agent.fixedPart, Prod.mk.injEq] at hfixed
  obtain ⟨hprog, hcmd, -, -, haddr, -⟩ := hfixed
  exact {
    word := hcmd ▸ h.word
    prog := by rw [huprog, h.prog, hcfg]
    inside := by
      have := h.inside
      rw [huprog, hupc]
      omega
    live := (hf.stopped g).trans h.live
    left := by rw [hcpc, hprog]; exact h.left
    admitted := h.admitted.mono haddr hcfg hbound
    holds := fun hguarded _ => hholds hguarded }

/-- The current micro-op of a running agent says where it is in a guarded command (R140). -/
theorem Running.op_eq_acq_iff (h : Running s a g i) {op : MicroOp} (hop : g.uprog[g.upc]? = some op) :
    op = .acq ↔ guarded i = true ∧ g.upc = 0 := by
  rw [← program_getElem?_eq_acq (c := s.cfg), ← h.prog, hop, Option.some.injEq]

theorem Running.op_eq_rel_iff (h : Running s a g i) {op : MicroOp} (hop : g.uprog[g.upc]? = some op) :
    op = .rel ↔ guarded i = true ∧ g.upc + 1 = g.uprog.length := by
  have hrel := program_getElem?_eq_rel (c := s.cfg) (i := i) (k := g.upc)
  rwa [← h.prog, hop, Option.some.injEq] at hrel

/-- An agent that holds the guard is inside its own guarded command. -/
theorem State.Inv.guarded_of_held (hinv : s.Inv) (hg : lookupAgent s.agents a = some g)
    (h : Running s a g i) (hheld : s.guard = .held a) : guarded i = true ∧ 0 < g.upc := by
  obtain ⟨g', j, hg', hj, hguarded, hpos⟩ := hinv.holder a hheld
  obtain rfl := Option.some.inj (hg.symm.trans hg')
  obtain rfl := h.unique hj
  exact ⟨hguarded, hpos⟩

/-- A micro-op moves the guard between free and its own agent only (R141, R142). -/
theorem State.OpStep.held_other_iff {op : MicroOp} (hstep : s.OpStep a op t)
    (hen : s.opEnabled a op = true) (hb : b ≠ a) : s.guard = .held b ↔ t.guard = .held b := by
  by_cases hacq : op = .acq
  · subst hacq
    have hfree : s.guard = .free := of_decide_eq_true hen
    simp [hstep.takes rfl, hfree, hb.symm]
  · by_cases hrel : op = .rel
    · subst hrel
      have hheld : s.guard = .held a := of_decide_eq_true hen
      simp [hstep.frees rfl, hheld, hb.symm]
    · rw [hstep.guard hacq hrel]

/-- Past its first micro-op an agent of a guarded command that is not at its REL holds the guard. -/
theorem State.OpStep.holds {op : MicroOp} (hstep : s.OpStep a op t) (h : Running s a g i)
    (hop : g.uprog[g.upc]? = some op) (hlast : g.upc + 1 ≠ g.uprog.length)
    (hguarded : guarded i = true) : t.guard = .held a := by
  by_cases hacq : op = .acq
  · exact hstep.takes hacq
  · have hpos : g.upc ≠ 0 := fun hzero => hacq ((h.op_eq_acq_iff hop).mpr ⟨hguarded, hzero⟩)
    have hrel : op ≠ .rel := fun hrel => hlast ((h.op_eq_rel_iff hop).mp hrel).2
    exact (hstep.guard hacq hrel).trans (h.holds hguarded (Nat.pos_of_ne_zero hpos))

/-- If its agent holds the guard after a micro-op, that is inside a guarded command and not at its end. -/
theorem State.Inv.inside_of_held_after {op : MicroOp} (hinv : s.Inv)
    (hg : lookupAgent s.agents a = some g) (h : Running s a g i) (hop : g.uprog[g.upc]? = some op)
    (hstep : s.OpStep a op t) (hheld : t.guard = .held a) :
    guarded i = true ∧ g.upc + 1 ≠ g.uprog.length := by
  by_cases hacq : op = .acq
  · refine ⟨((h.op_eq_acq_iff hop).mp hacq).1, fun hlast => ?_⟩
    have hrel := (h.op_eq_rel_iff hop).mpr ⟨((h.op_eq_acq_iff hop).mp hacq).1, hlast⟩
    exact nomatch hacq.symm.trans hrel
  · by_cases hrel : op = .rel
    · exact nomatch (hstep.frees hrel).symm.trans hheld
    · have hguarded := (hinv.guarded_of_held hg h ((hstep.guard hacq hrel).symm.trans hheld)).1
      exact ⟨hguarded, fun hlast => hrel ((h.op_eq_rel_iff hop).mpr ⟨hguarded, hlast⟩)⟩

/-- A micro-op leaves a bound window with a good base: BIND's was checked at issue (R105). -/
theorem State.Inv.baseOk_of_opStep {op : MicroOp} (hinv : s.Inv)
    (hg : lookupAgent s.agents a = some g) (h : Running s a g i) (hop : g.uprog[g.upc]? = some op)
    (hstep : s.OpStep a op t) (hbound : t.bound = true) : t.BaseOk := by
  by_cases hbind : op = .bindop
  · subst hbind
    obtain rfl := bindop_mem_program (h.prog ▸ List.mem_of_getElem? hop)
    have hagent : s.agent a = g := by simp [State.agent, hg]
    rw [State.BaseOk, (hstep.binds rfl).2, hagent, hstep.cfg]
    exact h.admitted
  · obtain ⟨hb, hbase⟩ := hstep.binding hbind
    rw [State.BaseOk, hbase, hstep.cfg]
    exact hinv.binding (hb ▸ hbound)

theorem State.Inv.opStep {op : MicroOp} (hinv : s.Inv) (hg : lookupAgent s.agents a = some g)
    (h : Running s a g i) (hop : g.uprog[g.upc]? = some op) (hen : s.opEnabled a op = true)
    (hstep : s.OpStep a op t) : t.Inv := by
  obtain ⟨f, hf, hagents⟩ := hstep.record
  have hbound : s.bound = true → t.bound = true := fun hb => by
    by_cases hbind : op = .bindop
    · exact (hstep.binds hbind).1
    · exact (hstep.binding hbind).1.trans hb
  have hrun : g.upc + 1 ≠ g.uprog.length → Running t a (f g) i := fun hlast =>
    h.advance hf hstep.cfg hbound (hstep.holds h hop hlast) hlast
  refine hinv.of_record hg hagents hstep.cfg hbound (hinv.baseOk_of_opStep hg h hop hstep)
    (fun b hb => hstep.held_other_iff hen hb) ?index (fun hne => ⟨i, hrun fun hlast => ?running⟩)
    fun hheld => ?holder
  case index =>
    have hleft := h.left
    have hprog : (f g).prog = g.prog := congrArg Prod.fst (hf.fixedPart g)
    by_cases hlast : g.upc + 1 = g.uprog.length
    · rw [(hf.last hlast).2.2, hprog]
      exact hleft
    · rw [(hf.not_last hlast).2.2, hprog]
      exact hleft.le
  case running => exact hne (hf.last hlast).1
  case holder =>
    obtain ⟨hguarded, hlast⟩ := hinv.inside_of_held_after hg h hop hstep hheld
    refine ⟨i, hrun hlast, hguarded, ?_⟩
    rw [(hf.not_last hlast).2.1]
    exact Nat.succ_pos _

/-- A step of the decoded command keeps the invariant. -/
theorem State.Inv.exec (hinv : s.Inv) (hword : decode (s.agent s.turn).cmd = .op i)
    (h : exec i s = .next t) : t.Inv := by
  rcases exec_cases i s with ⟨-, hexec⟩ | ⟨hready, hexec⟩ | ⟨op, henabled, hne, hop, hexec⟩
  · exact Host.Outcome.next.inj (hexec.symm.trans h) ▸ hinv
  · exact Host.Outcome.next.inj (hexec.symm.trans h) ▸ hinv.issue hready hword
  · obtain ⟨j, hj⟩ := hinv.running_agent hne
    exact hinv.opStep (State.lookup_of_running hne) hj hop (State.opEnabled_of_currentOp henabled hop)
      (runOp_opStep (hexec.symm.trans h))

end

/-- Settles O51: the beginning of the step keeps the invariant, then the decoded command's step does, and
so does a refusal, whose agent is idle since a running agent's latch decodes. -/
theorem stepKeepsTheInvariant : Obligations.StepKeepsTheInvariant := by
  intro s t hinv h
  obtain ⟨a, rest, hmover, hcase⟩ := step_cases h
  have hlookup := State.lookup_of_enabled (State.enabled_of_mover hmover)
  have hbegun := hinv.begin hlookup rest
  rcases hcase with ⟨i, hword, hexec⟩ | ⟨reason, hword, rfl⟩
  · exact hbegun.exec (by rwa [State.begin_turn]) hexec
  · have hidle : (s.agent a).uprog = [] := by
      by_contra hne
      obtain ⟨j, hj⟩ := hinv.running_agent hne
      rw [State.begin_agent_of_running rest hne, hj.word] at hword
      exact nomatch hword
    have hloaded : (s.agent a).loadLatches.uprog = [] := by rw [Agent.loadLatches_uprog, hidle]
    exact hbegun.of_idle (f := fun g => { g with refused := some reason })
      (State.begin_lookup_idle hlookup hidle) hloaded rfl rfl rfl rfl rfl ⟨hloaded, rfl, rfl⟩

end Sys2Proof.Machine
end

section
/-! PROOFS of the family other, the whole machine: who moves (R71), the guard (R141 to R147), the end of a
run (R247), and the sequencer states (R165). -/

namespace Sys2Proof.Machine

section
variable {s t : State} {a b : AgentId} {g : Agent} {i : Instr} {rest : List AgentId}

/-! ## Who moves -/

/-- The schedule's first agent moves when it has an enabled step. -/
theorem State.mover_of_turns (hturns : s.turns = a :: rest) (h : s.enabled a = true) :
    s.mover = some (a, rest) := by
  have hhead : s.turns.dropWhile (fun b => !s.enabled b) = a :: rest := by
    rw [hturns]
    exact List.dropWhile_cons_of_neg (by simpa using h)
  unfold State.mover
  rw [hhead]

theorem State.mem_enabledAgents (h : s.enabled a = true) : a ∈ s.enabledAgents :=
  List.mem_filter.mpr ⟨List.mem_map.mpr ⟨_, lookupAgent_mem (State.lookup_of_enabled h), rfl⟩, h⟩

/-- Nobody moves only when nobody has an enabled step. -/
theorem State.not_enabled_of_mover_none (h : s.mover = none) (a : AgentId) : s.enabled a = false := by
  refine Bool.eq_false_iff.mpr fun henabled => ?_
  have hmem := State.mem_enabledAgents henabled
  unfold State.mover at h
  split at h
  next => exact nomatch h
  next =>
    split at h
    next hnil => exact List.not_mem_nil (hnil ▸ hmem)
    next => exact nomatch h
    next => exact nomatch h

/-- Nobody moves when nobody has an enabled step. -/
theorem State.mover_eq_none (h : ∀ a, s.enabled a = false) : s.mover = none := by
  cases hmover : s.mover with
  | none => rfl
  | some p => exact absurd (State.enabled_of_mover (a := p.1) (rest := p.2) hmover) (by simp [h])

/-! ## The guard -/

theorem State.excluded_of_held (hheld : s.guard = .held a) (hb : b ≠ a) (hcore : b.core = a.core) :
    s.excluded b = true := by
  simp [State.excluded, hheld, hb, hcore]

/-- An excluded agent has no enabled step (R143). -/
theorem State.enabled_of_excluded (h : s.excluded a = true) : s.enabled a = false := by
  cases hl : lookupAgent s.agents a with
  | none => simp [State.enabled, hl]
  | some g => simp [State.enabled_eq hl, h]

/-- For an agent of the machine that the guard lets step, a live record with work is an enabled step. -/
theorem State.enabled_of_hasWork (hg : lookupAgent s.agents a = some g) (hlive : g.stopped = false)
    (hexcluded : s.excluded a = false) (hwork : s.hasWork a g = true) : s.enabled a = true := by
  simp [State.enabled_eq hg, hlive, hexcluded, hwork]

/-- A running agent at a micro-op that has a step has work. -/
theorem Running.hasWork (h : Running s a g i)
    (hop : ∀ op, g.uprog[g.upc]? = some op → s.opEnabled a op = true) : s.hasWork a g = true := by
  have hcur := List.getElem?_eq_getElem h.inside
  rw [State.hasWork_running hcur]
  exact hop _ hcur

/-- The only waiting micro-op of a running agent is an ACQ of a held guard (R146): at its REL it holds the
guard. -/
theorem Running.opEnabled (h : Running s a g i) {op : MicroOp} (hop : g.uprog[g.upc]? = some op)
    (hacq : op = .acq → s.guard = .free) : s.opEnabled a op = true := by
  cases op with
  | acq => exact decide_eq_true (hacq rfl)
  | rel =>
    obtain ⟨hguarded, hlast⟩ := (h.op_eq_rel_iff hop).mp rfl
    have hpos : g.upc ≠ 0 := fun hzero =>
      nomatch (h.op_eq_acq_iff hop).mpr ⟨hguarded, hzero⟩
    exact decide_eq_true (h.holds hguarded (Nat.pos_of_ne_zero hpos))
  | ld | st | set | ret | bindop | wait => rfl

/-! ## The end of a run -/

/-- A finished agent has no work. -/
theorem Agent.hasWork_of_finished (h : g.finished = true) : s.hasWork a g = false := by
  obtain ⟨hidle, hcpc⟩ := Bool.and_eq_true_iff.mp h
  simp [State.hasWork, hidle, of_decide_eq_true hcpc]

/-- In a final state nobody has an enabled step (R247). -/
theorem State.not_enabled_of_final (h : s.final = true) (a : AgentId) : s.enabled a = false := by
  simp only [State.final, Bool.and_eq_true, List.all_eq_true] at h
  obtain ⟨hall, -⟩ := h
  cases hl : lookupAgent s.agents a with
  | none => simp [State.enabled, hl]
  | some g => simp [State.enabled_eq hl, Agent.hasWork_of_finished (hall _ (lookupAgent_mem hl)).1]

/-- In a list without repeated ids every record is found. -/
theorem lookupAgent_of_mem {l : List (AgentId × Agent)} (hnodup : (l.map (·.1)).Nodup)
    (h : (a, g) ∈ l) : lookupAgent l a = some g := by
  induction l with
  | nil => exact absurd h List.not_mem_nil
  | cons p l ih =>
    obtain ⟨b, g'⟩ := p
    obtain ⟨hb, htail⟩ := List.nodup_cons.mp hnodup
    rcases List.mem_cons.mp h with heq | hmem
    · obtain ⟨rfl, rfl⟩ := Prod.mk.inj heq
      simp [lookupAgent]
    · have hab : a ≠ b := by
        rintro rfl
        exact hb (List.mem_map.mpr ⟨_, hmem, rfl⟩)
      simpa [lookupAgent, hab] using ih htail hmem

/-- With the guard free, a live agent that has no enabled step has finished (R247). -/
theorem State.Inv.finished (hinv : s.Inv) (hfree : s.guard = .free)
    (hg : lookupAgent s.agents a = some g) (hlive : g.stopped = false)
    (hnot : s.enabled a = false) : g.finished = true := by
  have hexcluded : s.excluded a = false := by simp [State.excluded, hfree]
  have hwork : ¬ s.hasWork a g = true := fun hwork => by
    simp [State.enabled_of_hasWork hg hlive hexcluded hwork] at hnot
  by_cases hidle : g.uprog = []
  · have hindex := hinv.index a g hg
    have hle : ¬ g.cpc < g.prog.length := fun hlt =>
      hwork (by simpa [State.hasWork, Agent.idle, hidle] using hlt)
    simp only [Agent.finished, Agent.idle, hidle, decide_true, Bool.true_and, decide_eq_true_eq]
    omega
  · obtain ⟨i, hi⟩ := hinv.running a g hg hidle
    exact absurd (hi.hasWork fun op hop => hi.opEnabled hop fun _ => hfree) hwork

/-- What `step` answers where nobody moves. -/
theorem step_of_mover_none (hcfg : configOk s.cfg = true) (hset : agentSetOk s.cfg = true)
    (hmover : s.mover = none) : step s = .fault s.haltReason := by
  simp only [step, if_pos hcfg, if_pos hset, hmover]

end

/-- Settles O54: the holder is inside its guarded command, past its ACQ, and the guard does not exclude
it. -/
theorem guardHolderIsAlwaysEnabled : Obligations.GuardHolderIsAlwaysEnabled := by
  intro s a hinv hheld
  obtain ⟨g, i, hg, hi, -, hpos⟩ := hinv.holder a hheld
  have hexcluded : s.excluded a = false := by simp [State.excluded, hheld]
  refine State.enabled_of_hasWork hg hi.live hexcluded (hi.hasWork fun op hop => hi.opEnabled hop ?_)
  intro hacq
  exact absurd ((hi.op_eq_acq_iff hop).mp hacq).2 hpos.ne'

/-- Where nobody moves, the state is final or some agent is stopped: the guard is free, since its holder
would have a step, so every live agent has finished. -/
theorem State.Inv.final_or_stopped {s : State} (hinv : s.Inv) (hnodup : s.cfg.agents.Nodup)
    (hmover : s.mover = none) : s.final = true ∨ ∃ p ∈ s.agents, p.2.stopped = true := by
  by_cases hstopped : ∃ p ∈ s.agents, p.2.stopped = true
  · exact .inr hstopped
  have hlive : ∀ p ∈ s.agents, p.2.stopped = false := fun p hp =>
    Bool.eq_false_iff.mpr fun h => hstopped ⟨p, hp, h⟩
  have hnot := State.not_enabled_of_mover_none hmover
  have hfree : s.guard = .free := by
    cases hguard : s.guard with
    | free => rfl
    | held a => simpa [hnot a] using guardHolderIsAlwaysEnabled s a hinv hguard
  refine .inl ?_
  simp only [State.final, Bool.and_eq_true, List.all_eq_true]
  refine ⟨fun ⟨a, g⟩ hp => ⟨?_, by simp [hlive _ hp]⟩, decide_eq_true hfree⟩
  exact hinv.finished hfree (lookupAgent_of_mem (hinv.keys ▸ hnodup) hp) (hlive _ hp) (hnot a)

/-- Settles O53: a halt is no stuck one, by the same alternative, and no micro-op faults. -/
theorem runsNeverGetStuck : Obligations.RunsNeverGetStuck := by
  refine fun s hinv => ⟨hinv.final_or_stopped, fun hstuck => ?_⟩
  unfold step at hstuck
  split_ifs at hstuck with hcfg hset
  split at hstuck
  next hmover =>
    have hnodup : s.cfg.agents.Nodup := of_decide_eq_true (Bool.and_eq_true_iff.mp hset).1
    have hhalt : s.haltReason = .runStuck := Host.Outcome.fault.inj hstuck
    rcases hinv.final_or_stopped hnodup hmover with hfinal | hstopped
    · simp [State.haltReason, hfinal] at hhalt
    · have hany : s.agents.any (fun p => p.2.stopped) = true := List.any_eq_true.mpr hstopped
      unfold State.haltReason at hhalt
      split_ifs at hhalt
  next a rest _ =>
    split at hstuck
    next i _ => exact hinv.exec_begin_ne_fault hcfg i rest _ hstuck
    next => exact nomatch hstuck

/-- Settles O60: in a final state nobody has a step, and a stopped agent breaks finality. -/
theorem finalStateEndsTheRun : Obligations.FinalStateEndsTheRun := by
  refine ⟨fun s hcfg hset hfinal => ?_, fun s a g hmem hstopped => ?_⟩
  · rw [step_of_mover_none hcfg hset (State.mover_eq_none (State.not_enabled_of_final hfinal)),
      State.haltReason, if_pos hfinal]
  · refine Bool.eq_false_iff.mpr fun hfinal => ?_
    simp only [State.final, Bool.and_eq_true, List.all_eq_true] at hfinal
    simpa [hstopped] using (hfinal.1 _ hmem).2

/-- Settles O11: the schedule's first agent, the mover's enabled step, and a mover wherever one has a
step. -/
theorem anyEnabledAgentMayMoveNext : Obligations.AnyEnabledAgentMayMoveNext := by
  refine ⟨fun s a rest h => State.mover_of_turns (s := { s with turns := a :: rest }) rfl h, fun s a rest h => State.enabled_of_mover h,
    fun s a h => ?_⟩
  cases hmover : s.mover with
  | none => simp [State.not_enabled_of_mover_none hmover a] at h
  | some p => exact ⟨p.1, p.2, rfl⟩

/-- Settles O55: every step of the machine keeps the guard's law. -/
theorem stepKeepsTheGuardLaw : Obligations.StepKeepsTheGuardLaw :=
  fun _ _ hreplay h => (step_guardStep h).keeps_replay hreplay

/-- An agent of another core than the holder's has its steps as with a free guard, but for its ACQ; at a
REL it has none either way. -/
theorem State.enabled_of_other_core {s : State} {a b : AgentId} (hheld : s.guard = .held a)
    (hcore : b.core ≠ a.core) :
    s.enabled b = { s with guard := .free }.enabled b ∨
      ((s.agent b).uprog[(s.agent b).upc]? = some .acq ∧ s.enabled b = false) := by
  have hne : b ≠ a := fun h => hcore (congrArg AgentId.core h)
  have hexcluded : s.excluded b = false := by simp [State.excluded, hheld, hcore]
  cases hl : lookupAgent s.agents b with
  | none => exact .inl (by simp [State.enabled, hl])
  | some g =>
    have hagent : s.agent b = g := by simp [State.agent, hl]
    have hfree := State.enabled_eq (s := { s with guard := .free }) hl
    rw [hagent, State.enabled_eq hl, hfree, hexcluded]
    by_cases hidle : g.idle = true
    · exact .inl (by simp [State.hasWork, hidle, State.excluded])
    cases hop : g.uprog[g.upc]? with
    | none => exact .inl (by simp [State.hasWork, hidle, hop])
    | some op =>
      rw [State.hasWork_running hop, State.hasWork_running hop]
      cases op with
      | acq => exact .inr ⟨rfl, by simp [State.opEnabled, hheld]⟩
      | rel => exact .inl (by simp [State.opEnabled, hheld, hne.symm])
      | ld | st | set | ret | bindop | wait => exact .inl rfl

/-- Settles O17: exclusion by the holder's core, and none by a free guard. -/
theorem guardExcludesTheHoldersCore : Obligations.GuardExcludesTheHoldersCore := by
  intro s
  refine ⟨fun g b hheld hb hcore => ?_, fun g b hheld hcore => State.enabled_of_other_core hheld hcore,
    fun hfree b => by simp [State.excluded, hfree]⟩
  have hnot := State.enabled_of_excluded (State.excluded_of_held hheld hb hcore)
  refine ⟨hnot, fun rest hmover => ?_, fun i hturn => exec_of_not_enabled (hturn ▸ hnot)⟩
  simpa [hnot] using State.enabled_of_mover hmover

/-- The step of a running agent that may step, at a micro-op that has one. -/
theorem exec_of_opEnabled {i : Instr} {s : State} {g : Agent} {op : MicroOp}
    (hg : lookupAgent s.agents s.turn = some g) (hlive : g.stopped = false)
    (hexcluded : s.excluded s.turn = false) (hop : g.uprog[g.upc]? = some op)
    (hen : s.opEnabled s.turn op = true) : exec i s = runOp s s.turn op := by
  have hagent : s.agent s.turn = g := by simp [State.agent, hg]
  have hwork : s.hasWork s.turn g = true := by rw [State.hasWork_running hop, hen]
  refine exec_running (State.enabled_of_hasWork hg hlive hexcluded hwork) ?_ ?_
  · rintro hnil
    simp [← hagent, hnil] at hop
  · rw [State.currentOp, hagent, hop]

/-- Settles O18: ACQ and REL where they have a step, and ACQ where it has none. -/
theorem guardIsTakenAndReleased : Obligations.GuardIsTakenAndReleased := by
  intro i s g hg hlive hexcluded _
  refine ⟨fun hop hfree => ?_, fun hop b hheld => ?_, fun hop hheld => ?_⟩
  · exact exec_of_opEnabled hg hlive hexcluded hop (decide_eq_true hfree)
  · have hnot : s.enabled s.turn = false := by
      rw [State.enabled_eq hg, State.hasWork_running hop]
      simp [State.opEnabled, hheld]
    exact ⟨hnot, exec_of_not_enabled hnot⟩
  · exact exec_of_opEnabled hg hlive hexcluded hop (decide_eq_true hheld)

/-- Settles O19: the current micro-op is the step. -/
theorem waitRecordsAndChangesNothingElse : Obligations.WaitRecordsAndChangesNothingElse :=
  fun _ _ _ henabled hrun hop => exec_running henabled hrun hop

/-! ## The issue step and the steps of a command -/

/-- Settles O10: `step` unfolded for a moving agent whose word decodes. -/
theorem stepRunsTheDecodedCommand : Obligations.StepRunsTheDecodedCommand :=
  fun _ _ _ _ hcfg hset hmover hword => step_eq_exec hcfg hset hmover hword

section
variable (s : State) (a : AgentId) (rest : List AgentId)

@[simp] theorem State.begin_turns : (s.begin a rest).turns = rest := by
  unfold State.begin
  split <;> rfl

@[simp] theorem State.begin_tick : (s.begin a rest).tick = s.tick + 1 := by
  unfold State.begin
  split <;> rfl

@[simp] theorem State.begin_drawCount : (s.begin a rest).drawCount = s.drawCount := by
  unfold State.begin State.sampleInput
  split <;> split <;> rfl

/-- The input is sampled at the beginning of the step (R50). -/
theorem State.begin_sample :
    (s.begin a rest).intSrc = s.sampleInput.intSrc ∧ (s.begin a rest).intIn = s.sampleInput.intIn := by
  unfold State.begin
  split <;> exact ⟨rfl, rfl⟩

end

/-- Settles O12: the record after the beginning of the step, then the other fields one by one. -/
theorem issueLoadsTheLatches : Obligations.IssueLoadsTheLatches := by
  intro s a rest henabled
  obtain ⟨hsrc, hin⟩ := s.begin_sample a rest
  refine ⟨fun c hidle hc => ?loads, State.begin_agent_of_running rest,
    fun b hb => s.begin_agent_other rest hb, by simp, by simp, by simp, by simp, by simp, by simp,
    by simp, by simp, by simp, by simp, by simp, fun hnil => ?free, fun v l hcons => ?sampled⟩
  case loads =>
    have hlookup := State.begin_lookup_idle (rest := rest) (State.lookup_of_enabled henabled) hidle
    rw [State.agent, hlookup, Option.getD_some, Agent.loadLatches_of_command hc]
  case free => rw [hsrc, State.sampleInput, hnil]
  case sampled => exact ⟨by rw [hsrc, State.sampleInput, hcons], by rw [hin, State.sampleInput, hcons]⟩

/-- The issue step of a command whose preconditions hold (R103 part 4). -/
theorem exec_of_precondition_none {i : Instr} {s : State} (hready : s.Ready)
    (hpre : precondition s i = none) : exec i s = .next (s.issued i) := by
  rw [exec_issue hready, hpre]
  rfl

/-- Settles O14: the issue step, then one micro-op, which exists since the issue checks mapped its place. -/
theorem everyStepOfACommandCompletes : Obligations.EveryStepOfACommandCompletes := by
  intro i s
  refine ⟨exec_of_precondition_none, fun hinv hcfg henabled hrun => ?_⟩
  obtain ⟨op, hop⟩ : ∃ op, s.currentOp = some op := ⟨_, List.getElem?_eq_getElem hrun.inside⟩
  have hmaps := program_accessesOnly_maps hrun.admitted op (hrun.prog ▸ List.mem_of_getElem? hop)
  obtain ⟨t, ht⟩ := exists_runOp_eq_next hcfg hinv.binding hmaps
  obtain ⟨f, hf, hself⟩ := (runOp_opStep ht).agent_self hrun.uprog_ne_nil
  refine ⟨t, (exec_running henabled hrun.uprog_ne_nil hop).trans ht, ?_⟩
  rw [hself, ← hrun.prog]
  refine ⟨?_, fun hlt => ?_, fun hlast => ?_⟩
  · by_cases hlast : (s.agent s.turn).upc + 1 = (s.agent s.turn).uprog.length
    · exact (hf.last hlast).2.1
    · exact (hf.not_last hlast).2.1
  · obtain ⟨huprog, -, hcpc⟩ := hf.not_last hlt.ne
    exact ⟨huprog, hcpc⟩
  · obtain ⟨huprog, -, hcpc⟩ := hf.last hlast
    exact ⟨huprog, hcpc⟩

/-! ## Power-on -/

/-- Settles O50: at power-on nobody runs, nothing is bound and the guard is free. -/
theorem powerOnMeetsTheInvariant : Obligations.PowerOnMeetsTheInvariant := by
  refine ⟨⟨rfl, rfl, rfl, rfl, by simp [State.reset, Config.defaultProfile, Agent.PowerOn, Agent.reset]⟩,
    fun s hs => ?_⟩
  obtain ⟨hbound, hguard, -, hkeys, hall⟩ := hs
  refine ⟨hkeys, fun hb => ?_, fun a g hg => ?_, fun a g hg hne => ?_, fun a hheld => ?_⟩
  · exact nomatch hbound.symm.trans hb
  · obtain ⟨hcpc, -⟩ := hall _ (lookupAgent_mem hg)
    exact hcpc ▸ Nat.zero_le _
  · obtain ⟨-, hidle, -⟩ := hall _ (lookupAgent_mem hg)
    exact absurd hidle hne
  · exact nomatch hguard.symm.trans hheld

/-! ## The sequencer states -/

theorem Agent.seqState_of_idle {g : Agent} (h : g.uprog = []) : g.seqState = .idle := by
  simp [Agent.seqState, Agent.idle, h]

theorem Agent.seqState_of_toggleReset {g : Agent} (h : g.uprog ≠ [])
    (hword : decode g.cmd = .op .toggleReset) : g.seqState = toggleSeqState g.upc := by
  simp [Agent.seqState, Agent.idle, h, hword]

theorem Agent.seqState_of_bringup {g : Agent} (h : g.uprog ≠ [])
    (hword : decode g.cmd = .op .bringup) : g.seqState = bringupSeqState g.upc := by
  simp [Agent.seqState, Agent.idle, h, hword]

/-- Settles O58: each range of the two tables, by the comparisons that select it. -/
theorem sequencerStatesFollowTheMicroOps : Obligations.SequencerStatesFollowTheMicroOps := by
  refine fun g => ⟨Agent.seqState_of_idle, fun hne hword => ?toggle, fun hne hword => ?bringup⟩
  case toggle =>
    rw [Agent.seqState_of_toggleReset hne hword, toggleSeqState]
    refine ⟨?_, ?_, ?_, ?_, ?_, ?_⟩ <;> intros <;> simp (disch := omega) only [if_pos, if_neg]
  case bringup =>
    rw [Agent.seqState_of_bringup hne hword, bringupSeqState]
    refine ⟨?_, ?_, ?_, ?_, ?_, ?_, ?_, ?_, ?_⟩ <;> intros <;> simp (disch := omega) only [if_pos, if_neg]

/-- An agent in a sequencer state past its ACQ holds the guard (R165). -/
theorem State.Inv.held_of_seqState {s : State} {a : AgentId} (hinv : s.Inv)
    (h : (s.agent a).seqState ∉ [SeqState.idle, .tAcq, .bAcq]) : s.guard = .held a := by
  have hne : (s.agent a).uprog ≠ [] := fun hidle => h (by simp [Agent.seqState_of_idle hidle])
  obtain ⟨i, hi⟩ := hinv.running_agent hne
  have hinside : guarded i = true ∧ 0 < (s.agent a).upc := by
    cases i with
    | toggleReset =>
      refine ⟨rfl, Nat.pos_of_ne_zero fun hzero => h ?_⟩
      simp [Agent.seqState_of_toggleReset hne hi.word, hzero, toggleSeqState]
    | bringup =>
      refine ⟨rfl, Nat.pos_of_ne_zero fun hzero => h ?_⟩
      simp [Agent.seqState_of_bringup hne hi.word, hzero, bringupSeqState]
    | bind | getIspClock | setIspClock | getLpClock | setLpClock | getReset | setReset | getIntStatus
    | getIntMask | setIntMask | setAxiMode | rawRead | rawWriteMasked =>
      exact absurd (by simp [Agent.seqState, Agent.idle, hne, hi.word]) h
  exact hi.holds hinside.1 hinside.2

/-- Settles O57: both agents hold the one guard. -/
theorem atMostOneAgentIsInsideTheSequencer : Obligations.AtMostOneAgentIsInsideTheSequencer :=
  fun _ _ _ hinv ha hb => Guard.held.inj ((hinv.held_of_seqState ha).symm.trans (hinv.held_of_seqState hb))

/-! ## The preconditions -/

section
variable {s : State} {i : Instr}

/-- The issue step of a command with one check (R202). -/
theorem exec_issue_checkBound (hready : s.Ready) (hpre : precondition s i = s.checkBound) :
    exec i s = .next (if s.bound then s.issued i else s.raiseFault s.turn .unbound) := by
  cases hb : s.bound with
  | true => exact exec_of_precondition_none hready (by simp [hpre, State.checkBound, hb])
  | false => exact exec_of_precondition hready (by simp [hpre, State.checkBound, hb])

theorem State.checkBaseFits_of_lt {ad : Addr} (h : 2 ^ 64 < ad.toNat + s.cfg.windowSize) :
    s.checkBaseFits ad = some .outOfWindow := if_neg (Nat.not_le.mpr h)

theorem State.checkBaseFits_of_le {ad : Addr} (h : ad.toNat + s.cfg.windowSize ≤ 2 ^ 64) :
    s.checkBaseFits ad = none := if_pos h

theorem exec_bind (hready : s.Ready) : exec .bind s = .next
    (if s.bound then s.raiseFault s.turn .rebind
     else if (s.agent s.turn).addr.toNat % 4 ≠ 0 then s.raiseFault s.turn .misaligned
     else if 2 ^ 64 < (s.agent s.turn).addr.toNat + s.cfg.windowSize then
       s.raiseFault s.turn .outOfWindow
     else s.issued .bind) := by
  split_ifs with hbound haligned hfits
  · exact exec_of_precondition hready
      (by simp [precondition, bindCheck, State.checkUnbound, hbound, firstFault])
  · exact exec_of_precondition hready
      (by simp [precondition, bindCheck, State.checkUnbound, hbound, checkAligned, haligned, firstFault])
  · exact exec_of_precondition hready
      (by simp [precondition, bindCheck, State.checkUnbound, hbound, checkAligned, not_not.mp haligned,
        State.checkBaseFits_of_lt hfits, firstFault])
  · exact exec_of_precondition_none hready
      (by simp [precondition, bindCheck, State.checkUnbound, hbound, checkAligned, not_not.mp haligned,
        State.checkBaseFits_of_le (Nat.not_lt.mp hfits), firstFault])

theorem exec_issue_rawCheck (hready : s.Ready) (hpre : precondition s i = rawCheck s) :
    exec i s = .next
      (if s.bound = false then s.raiseFault s.turn .unbound
       else if (s.agent s.turn).addr.toNat % 4 ≠ 0 then s.raiseFault s.turn .misaligned
       else if s.cfg.windowSize ≤ (s.agent s.turn).addr.toNat then s.raiseFault s.turn .outOfWindow
       else s.issued i) := by
  split_ifs with hbound haligned houtside
  · exact exec_of_precondition hready (by simp [hpre, rawCheck, State.checkBound, hbound, firstFault])
  · exact exec_of_precondition hready
      (by simp [hpre, rawCheck, State.checkBound, hbound, checkAligned, haligned, firstFault])
  · exact exec_of_precondition hready
      (by simp [hpre, rawCheck, State.checkBound, hbound, checkAligned, not_not.mp haligned,
        State.checkOffset, Nat.not_lt.mpr houtside, firstFault])
  · exact exec_of_precondition_none hready
      (by simp [hpre, rawCheck, State.checkBound, hbound, checkAligned, not_not.mp haligned,
        State.checkOffset, Nat.not_le.mp houtside, firstFault])

theorem exec_setAxiMode (hready : s.Ready) (bus : Nat) (off : Bool) : exec (.setAxiMode bus off) s = .next
    (if s.bound = false then s.raiseFault s.turn .unbound
     else if s.cfg.nAxiBus ≤ bus then s.raiseFault s.turn .badBus
     else s.issued (.setAxiMode bus off)) := by
  split_ifs with hbound hbus
  · exact exec_of_precondition hready
      (by simp [precondition, setAxiModeCheck, State.checkBound, hbound, firstFault])
  · exact exec_of_precondition hready
      (by simp [precondition, setAxiModeCheck, State.checkBound, hbound, State.checkBus,
        Nat.not_lt.mpr hbus, firstFault])
  · exact exec_of_precondition_none hready
      (by simp [precondition, setAxiModeCheck, State.checkBound, hbound, State.checkBus,
        Nat.not_le.mp hbus, firstFault])

/-- The issue step of BRINGUP in a bound state, its fixup word configured (R203). -/
theorem exec_bringup_of_fixup (hready : s.Ready) (hbound : s.bound = true) {e : Nat}
    (he : s.cfg.extFixupAddr = some e) : exec .bringup s = .next
      (if s.base.toNat ≤ e ∧ e < s.base.toNat + s.cfg.windowSize then
         s.raiseFault s.turn .fixupUnmapped
       else s.issued .bringup) := by
  split_ifs with hinside
  · exact exec_of_precondition hready
      (by simp [precondition, bringupCheck, State.checkBound, hbound, State.checkFixup, he, hinside,
        firstFault])
  · exact exec_of_precondition_none hready
      (by simp only [precondition, bringupCheck, State.checkBound, hbound, State.checkFixup, he,
        if_neg hinside, if_true, firstFault])

end

/-- Settles O13: the issue step of each group of commands that share their checks. -/
theorem preconditionsAreCheckedInOrder : Obligations.PreconditionsAreCheckedInOrder := by
  intro s hready
  refine ⟨fun i hi => exec_issue_checkBound hready ?_, exec_bind hready,
    fun i hi => exec_issue_rawCheck hready ?_, exec_setAxiMode hready, fun hbound => ?_,
    fun hbound hnone => ?_, fun e hbound he => exec_bringup_of_fixup hready hbound he,
    rfl, rfl, rfl, rfl, rfl, rfl⟩
  · simp only [List.mem_cons, List.not_mem_nil, or_false] at hi
    rcases hi with rfl | rfl | rfl | rfl | rfl | rfl | rfl | rfl | rfl | rfl <;> rfl
  · simp only [List.mem_cons, List.not_mem_nil, or_false] at hi
    rcases hi with rfl | rfl <;> rfl
  · exact exec_of_precondition hready
      (by simp [precondition, bringupCheck, State.checkBound, hbound, firstFault])
  · exact exec_of_precondition hready
      (by simp [precondition, bringupCheck, State.checkBound, hbound, State.checkFixup, hnone, firstFault])

end Sys2Proof.Machine
end

section
/-! PROOFS of the family other, the words: reads and writes of the status, the unmodelled and the fixup
words (R66 to R69), the byte view (R60), and what a store changes. -/

namespace Sys2Proof.Machine

/-! ## Words without stored state, and the fixup register -/

/-- Settles O46: INTSTS is the register at its offset, any other offset of the window is unmodelled. -/
theorem statusAndUnmodelledWordsHoldNoState : Obligations.StatusAndUnmodelledWordsHoldNoState := by
  refine fun s hw => ⟨State.memRead_reg hw .intsts, State.memWrite_reg hw .intsts,
    fun off haligned hlt hnone => ?_⟩
  have htarget := (State.target_window hw haligned hlt).2 (regAt_eq_none hnone)
  exact ⟨by rw [State.memRead, htarget], fun v => by rw [State.memWrite, htarget]⟩

/-- Settles O47: the configured address names the fixup register, also after a write to it. -/
theorem fixupRegisterIsStorage : Obligations.FixupRegisterIsStorage := by
  intro s e v hcfg he hout
  have htarget := State.target_fixup hcfg he hout
  have htarget' : ({ s with ext := v } : State).target (BitVec.ofNat 64 e) = some .ext := htarget
  exact ⟨by rw [State.memRead, htarget], by rw [State.memWrite, htarget], by rw [State.memRead, htarget']⟩

/-! ## The stored word at an address -/

/-- The stored word a target has, none where the spec gives it no stored state. -/
def State.wordOf (s : State) : Target → Option Word
  | .reg .intsts => none
  | .reg r => some (s.readReg r)
  | .unmodelled => none
  | .ext => some s.ext

section
variable {s t u : State} {ad x : Addr} {v : Word}

theorem State.storedWord_eq (s : State) (ad : Addr) :
    s.storedWord ad = (s.target ad).bind s.wordOf := by
  unfold State.storedWord
  cases s.target ad with
  | none => rfl
  | some k =>
    cases k with
    | reg r => cases r <;> rfl
    | unmodelled | ext => rfl

/-- The address map depends on the configuration and the binding only. -/
theorem State.target_congr (hcfg : t.cfg = s.cfg) (hbound : t.bound = s.bound) (hbase : t.base = s.base)
    (ad : Addr) : t.target ad = s.target ad := by
  unfold State.target State.inWindow
  rw [hcfg, hbound, hbase]

/-- The byte view depends on the address map and the words only. -/
theorem State.byteAt_congr (hcfg : t.cfg = s.cfg) (hbinding : t.bound = s.bound ∧ t.base = s.base)
    (hwords : t.csr = s.csr ∧ t.ext = s.ext) (b : Addr) : t.byteAt b = s.byteAt b := by
  simp only [State.byteAt, State.storedWord, State.target_congr hcfg hbinding.1 hbinding.2, hwords.1,
    hwords.2]

/-- Two addresses that name one stored word are one. -/
theorem State.eq_of_target_eq {k : Target} (hk : k ≠ .unmodelled) (had : s.target ad = some k)
    (hx : s.target x = some k) : x = ad := by
  cases k with
  | reg r => exact (State.regAddr_of_target hx).trans (State.regAddr_of_target had).symm
  | unmodelled => exact absurd rfl hk
  | ext =>
    have haddr : ∀ y : Addr, s.target y = some .ext → s.cfg.extFixupAddr = some y.toNat := by
      intro y hy
      unfold State.target at hy
      split_ifs at hy with _ _ hfixup
      · split at hy <;> exact nomatch hy
      · exact hfixup
    exact BitVec.eq_of_toNat_eq (Option.some.inj ((haddr x hx).symm.trans (haddr ad had)))

theorem State.memWrite_target (h : s.memWrite ad v = some u) (x : Addr) :
    u.target x = s.target x :=
  have hsame := State.memWrite_sameButWords h
  State.target_congr hsame.cfg hsame.bound hsame.base x

/-- A write that stores leaves the value written (R65, R69). -/
theorem State.storedWord_memWrite_self (h : s.memWrite ad v = some u) {w : Word}
    (hw : s.storedWord ad = some w) : u.storedWord ad = some v := by
  rw [State.storedWord_eq, State.memWrite_target h]
  rw [State.storedWord_eq] at hw
  rcases State.memWrite_cases h with ⟨r, htarget, rfl⟩ | ⟨htarget, rfl⟩ | ⟨htarget, rfl⟩
  · rw [htarget] at hw ⊢
    cases r with
    | intsts => exact nomatch hw
    | rstclk | blken | lpclk | intmsk | axisw => rfl
  · rw [htarget] at hw
    exact nomatch hw
  · rw [htarget]
    rfl

/-- A write leaves the stored word at every other address (R70). -/
theorem State.storedWord_memWrite_other (h : s.memWrite ad v = some u) (hx : x ≠ ad) :
    u.storedWord x = s.storedWord x := by
  rw [State.storedWord_eq, State.storedWord_eq, State.memWrite_target h]
  cases hk : s.target x with
  | none => rfl
  | some k =>
    rcases State.memWrite_cases h with ⟨r, htarget, rfl⟩ | ⟨-, rfl⟩ | ⟨htarget, rfl⟩
    · cases k with
      | reg q =>
        have hqr : q ≠ r := by
          rintro rfl
          exact hx (State.eq_of_target_eq (k := .reg q) nofun htarget hk)
        have hread := State.readReg_writeReg_other s r q v hqr
        cases q with
        | intsts => rfl
        | rstclk | blken | lpclk | intmsk | axisw => exact congrArg some hread
      | unmodelled => rfl
      | ext => simp [State.wordOf]
    · rfl
    · cases k with
      | reg q => cases q <;> rfl
      | unmodelled => rfl
      | ext => exact absurd (State.eq_of_target_eq (k := .ext) nofun htarget hk) hx

theorem State.storedWord_of_reg {r : Reg} (hr : r ≠ .intsts) (h : s.target ad = some (.reg r)) :
    s.storedWord ad = some (s.readReg r) := by
  rw [State.storedWord_eq, h]
  cases r with
  | intsts => exact absurd rfl hr
  | rstclk | blken | lpclk | intmsk | axisw => rfl

/-- A written address is aligned. -/
theorem State.aligned_of_memWrite (h : s.memWrite ad v = some u) : ad.toNat % 4 = 0 := by
  by_contra hne
  have hnone : s.target ad = none := by rw [State.target, if_pos hne]
  simp [State.memWrite, hnone] at h

end

/-- The byte of a word, by the word's own address. -/
theorem State.byteAt_eq {s : State} {b ad : Addr} {w : Word} {k : Nat} (hb : b.toNat = ad.toNat + k)
    (hk : k < 4) (haligned : ad.toNat % 4 = 0) (hw : s.storedWord ad = some w) :
    s.byteAt b = some (byteOf w k) := by
  have hmod : b.toNat % 4 = k := by omega
  have hword : BitVec.ofNat 64 (b.toNat - k) = ad := by
    apply BitVec.eq_of_toNat_eq
    have := ad.isLt
    rw [BitVec.toNat_ofNat, Nat.mod_eq_of_lt (by omega)]
    omega
  rw [State.byteAt, hmod, hword, hw]
  rfl

/-- Settles O48: the register's word is aligned and whole inside the window, which does not wrap. -/
theorem byteViewIsLittleEndian : Obligations.ByteViewIsLittleEndian := by
  intro s r k hw hr hk
  have hreg := State.regAddr_toNat hw r
  have hoff := regOffset_aligned hw.1 r
  have hlt := regOffset_lt hw.1 r
  obtain ⟨-, hsize, -⟩ := windowSize_of_configOk hw.1
  obtain ⟨hbase, hfits⟩ := hw.2.2
  refine State.byteAt_eq ?_ hk (by omega) (State.storedWord_of_reg hr (State.target_regAddr hw r))
  rw [BitVec.toNat_add, BitVec.toNat_ofNat, Nat.mod_eq_of_lt (by omega : k < 2 ^ 64),
    Nat.mod_eq_of_lt (by omega)]

/-! ## What a store of a command changes -/

section
variable {i : Instr} {s t : State}

/-- The current micro-op of a step that is not quiet, for an agent on a command that is not BIND: it is no
BINDOP. -/
theorem State.OnCommand.currentOp_ne_bindop (hon : s.OnCommand i) (hbind : i ≠ .bind) :
    s.currentOp ≠ some .bindop := fun hop =>
  hbind (bindop_mem_program (State.currentOp_mem_program hon hop))

/-- A store that completes wrote the value of its expression at its place. -/
theorem runOp_st_inv {a : AgentId} {p : Place} {e : Expr} (h : runOp s a (.st p e) = .next t) :
    ∃ ad u, s.placeAddr (s.agent a) p = some ad ∧
      s.memWrite ad (eval s.cfg (s.agent a) e) = some u ∧
      t = (u.modAgent a Agent.advance).record (.wr a ad (eval s.cfg (s.agent a) e)) := by
  rcases runSt_cases s a p e with hfault | ⟨ad, u, hplace, hwrite, hnext⟩
  · exact nomatch hfault.symm.trans h
  · exact ⟨ad, u, hplace, hwrite, (Host.Outcome.next.inj (hnext.symm.trans h)).symm⟩

end

/-- A step at a store leaves every byte outside the word it stores to. -/
theorem byteAt_of_runOp_st {s t : State} {a : AgentId} {p : Place} {e : Expr} {ad b : Addr}
    (h : runOp s a (.st p e) = .next t) (hplace : s.placeAddr (s.agent a) p = some ad)
    (hb : b.toNat < ad.toNat ∨ ad.toNat + 3 < b.toNat) : t.byteAt b = s.byteAt b := by
  obtain ⟨ad', u, hplace', hwrite, rfl⟩ := runOp_st_inv h
  obtain rfl := Option.some.inj (hplace.symm.trans hplace')
  have haligned := State.aligned_of_memWrite hwrite
  have hne : BitVec.ofNat 64 (b.toNat - b.toNat % 4) ≠ ad := by
    rintro heq
    have hnat := congrArg BitVec.toNat heq
    have := b.isLt
    rw [BitVec.toNat_ofNat, Nat.mod_eq_of_lt (by omega)] at hnat
    omega
  have hword := State.storedWord_memWrite_other hwrite hne
  exact congrArg (Option.map fun w => byteOf w (b.toNat % 4)) hword

/-- Settles O38: a store writes one aligned word, every other micro-op and the issue step none. -/
theorem storesChangeOnlyTheStoredWord : Obligations.StoresChangeOnlyTheStoredWord := by
  intro i s t hbind hon h
  rcases exec_op_cases h with ⟨l, es, rfl⟩ | ⟨op, hop, hrun⟩
  · exact ⟨fun _ _ _ _ _ _ _ => rfl, fun _ _ => rfl⟩
  · refine ⟨fun p e ad hst hplace b hb => ?_, fun hno b => ?_⟩
    · obtain rfl := Option.some.inj (hop.symm.trans hst)
      exact byteAt_of_runOp_st hrun hplace hb
    · have hstep := runOp_opStep hrun
      refine State.byteAt_congr hstep.cfg (hstep.binding ?_) (hstep.words fun p e hst => ?_) b
      · exact fun heq => hon.currentOp_ne_bindop hbind (heq ▸ hop)
      · exact hno p e (hst ▸ hop)

/-! ## The places a command stores to -/

/-- Every store of the list is to a place of which `P` holds. -/
def StoresOnly (P : Place → Prop) (l : List MicroOp) : Prop :=
  ∀ op ∈ l, ∀ p e, op = .st p e → P p

section
variable {P : Place → Prop}

@[simp] theorem storesOnly_nil : StoresOnly P [] := by simp [StoresOnly]

@[simp] theorem storesOnly_cons {op : MicroOp} {l : List MicroOp} :
    StoresOnly P (op :: l) ↔ (∀ p e, op = .st p e → P p) ∧ StoresOnly P l := List.forall_mem_cons

@[simp] theorem storesOnly_append {l l' : List MicroOp} :
    StoresOnly P (l ++ l') ↔ StoresOnly P l ∧ StoresOnly P l' := List.forall_mem_append

@[simp] theorem storesOnly_maskedWrite {p : Place} {m v : Expr} :
    StoresOnly P (maskedWrite p m v) ↔ P p := by
  simp [maskedWrite]

@[simp] theorem storesOnly_readRst : StoresOnly P readRst := by simp [readRst]

@[simp] theorem storesOnly_setRst (e : Expr) :
    StoresOnly P (setRst e) ↔ P (.reg .rstclk) ∧ P (.reg .blken) := by
  simp [setRst]

@[simp] theorem storesOnly_changeRst (e : Expr) :
    StoresOnly P (changeRst e) ↔ P (.reg .rstclk) ∧ P (.reg .blken) := by
  simp [changeRst]

@[simp] theorem storesOnly_setClk (c : Config) (v : Expr) :
    StoresOnly P (setClk c v) ↔ P (.reg .rstclk) := storesOnly_maskedWrite

theorem storesOnly_bringupProg (hA : P (.reg .rstclk)) (hB : P (.reg .blken)) (hfixup : P .fixup)
    (c : Config) : StoresOnly P (bringupProg c) := by
  simp [bringupProg, bringupStep1, bringupStep2, bringupRelease, bringupStep6, bringupStep7, setClkConst,
    hA, hB, hfixup]

end

/-- A command but RAW_WRITE_MASKED stores to its own registers, and BRINGUP to the fixup register too. -/
theorem program_storesOnly (c : Config) {i : Instr} (hi : i ≠ .rawWriteMasked) :
    StoresOnly (fun p => (∃ r ∈ writtenRegs i, p = .reg r) ∨ (i = .bringup ∧ p = .fixup))
      (program c i) := by
  cases i with
  | rawWriteMasked => exact absurd rfl hi
  | bringup => exact storesOnly_bringupProg (by simp [writtenRegs]) (by simp [writtenRegs]) (by simp) c
  | toggleReset => simp [program, toggleResetProg, writtenRegs]
  | setReset => simp [program, setResetProg, writtenRegs]
  | getReset => simp [program, getResetProg]
  | setIspClock => simp [program, setIspClockProg, writtenRegs]
  | setAxiMode => simp [program, setAxiModeProg, writtenRegs]
  | setLpClock => simp [program, setLpClockProg, writtenRegs]
  | setIntMask => simp [program, setIntMaskProg, writtenRegs]
  | bind => simp [program, bindProg]
  | getIspClock => simp [program, getIspClockProg]
  | getLpClock => simp [program, getLpClockProg]
  | getIntStatus => simp [program, getIntStatusProg]
  | getIntMask => simp [program, getIntMaskProg]
  | rawRead => simp [program, rawReadProg]

section
variable {s t u : State} {ad : Addr} {v : Word} {i : Instr}

/-- A write to what is not the fixup register leaves it. -/
theorem State.memWrite_ext (h : s.memWrite ad v = some u) (hne : s.target ad ≠ some .ext) :
    u.ext = s.ext := by
  rcases State.memWrite_cases h with ⟨r, -, rfl⟩ | ⟨-, rfl⟩ | ⟨htarget, -⟩
  · exact s.writeReg_ext r v
  · rfl
  · exact absurd htarget hne

/-- A write to what is not the register leaves the register. -/
theorem State.memWrite_readReg (h : s.memWrite ad v = some u) {r : Reg}
    (hne : s.target ad ≠ some (.reg r)) : u.readReg r = s.readReg r := by
  rcases State.memWrite_cases h with ⟨q, htarget, rfl⟩ | ⟨-, rfl⟩ | ⟨-, rfl⟩
  · exact State.readReg_writeReg_other s q r v fun hqr => hne (hqr ▸ htarget)
  · rfl
  · cases r <;> rfl

/-- An address of the window is not the fixup register's. -/
theorem State.target_ne_ext (h : s.inWindow ad = true) : s.target ad ≠ some .ext := by
  unfold State.target
  split_ifs
  · exact nofun
  · split <;> exact nofun

/-- A passed fixup check: the fixup word exists and lies outside the window (R203). -/
theorem State.fixup_of_checkFixup (h : s.checkFixup = none) :
    ∃ e, s.cfg.extFixupAddr = some e ∧
      ¬ (s.base.toNat ≤ e ∧ e < s.base.toNat + s.cfg.windowSize) := by
  unfold State.checkFixup at h
  split at h
  next => exact nomatch h
  next e he =>
    split_ifs at h with hinside
    exact ⟨e, he, hinside⟩

/-- A quiet step or a micro-op that is no store leaves the words; a store is to a place of the command. -/
theorem exec_words_cases (hon : s.OnCommand i) (h : exec i s = .next t) :
    (t.csr = s.csr ∧ t.ext = s.ext) ∨
      ∃ p e ad u, MicroOp.st p e ∈ program s.cfg i ∧ s.placeAddr (s.agent s.turn) p = some ad ∧
        s.memWrite ad (eval s.cfg (s.agent s.turn) e) = some u ∧ t.csr = u.csr ∧ t.ext = u.ext := by
  rcases exec_op_cases h with ⟨l, es, rfl⟩ | ⟨op, hop, hrun⟩
  · exact .inl ⟨rfl, rfl⟩
  · by_cases hst : ∃ p e, op = .st p e
    · obtain ⟨p, e, rfl⟩ := hst
      obtain ⟨ad, u, hplace, hwrite, rfl⟩ := runOp_st_inv hrun
      exact .inr ⟨p, e, ad, u, State.currentOp_mem_program hon hop, hplace, hwrite, rfl, rfl⟩
    · exact .inl ((runOp_opStep hrun).words fun p e heq => hst ⟨p, e, heq⟩)

theorem State.readReg_congr (hcsr : t.csr = s.csr) (hsrc : t.intSrc = s.intSrc) (r : Reg) :
    t.readReg r = s.readReg r := by
  cases r <;> simp [State.readReg, hcsr, hsrc]

/-- A store of a command but RAW_WRITE_MASKED leaves the registers the command does not write. -/
theorem readReg_of_store (hw : s.WindowOk) (hfixup : i = .bringup → s.checkFixup = none)
    (hraw : i ≠ .rawWriteMasked) {p : Place} {e : Expr} (hmem : MicroOp.st p e ∈ program s.cfg i)
    (hplace : s.placeAddr (s.agent s.turn) p = some ad) (hwrite : s.memWrite ad v = some u) {r : Reg}
    (hr : r ∉ writtenRegs i) : u.readReg r = s.readReg r := by
  refine State.memWrite_readReg hwrite ?_
  rcases program_storesOnly s.cfg hraw _ hmem p e rfl with ⟨q, hq, rfl⟩ | ⟨hi, rfl⟩
  · obtain rfl := Option.some.inj hplace
    rw [State.target_regAddr hw q]
    rintro heq
    obtain rfl := Target.reg.inj (Option.some.inj heq)
    exact hr hq
  · obtain ⟨n, hn, hout⟩ := State.fixup_of_checkFixup (hfixup hi)
    obtain rfl : BitVec.ofNat 64 n = ad := by simpa [State.placeAddr, hn] using hplace
    rw [State.target_fixup hw.1 hn hout]
    exact nofun

/-- A store of a command but BRINGUP leaves the fixup register. -/
theorem ext_of_store (hw : s.WindowOk)
    (hraw : i = .rawWriteMasked → s.inWindow (s.base + (s.agent s.turn).addr) = true)
    (hi : i ≠ .bringup) {p : Place} {e : Expr} (hmem : MicroOp.st p e ∈ program s.cfg i)
    (hplace : s.placeAddr (s.agent s.turn) p = some ad) (hwrite : s.memWrite ad v = some u) :
    u.ext = s.ext := by
  refine State.memWrite_ext hwrite ?_
  by_cases hrawi : i = .rawWriteMasked
  · subst hrawi
    obtain rfl : p = .raw := by
      simp only [program, rawWriteMaskedProg, maskedWrite, List.mem_cons, reduceCtorEq, MicroOp.st.injEq,
        false_or, List.not_mem_nil, or_false] at hmem
      exact hmem.1
    obtain rfl := Option.some.inj hplace
    exact State.target_ne_ext (hraw rfl)
  · rcases program_storesOnly s.cfg hrawi _ hmem p e rfl with ⟨q, -, rfl⟩ | ⟨hbringup, -⟩
    · obtain rfl := Option.some.inj hplace
      rw [State.target_regAddr hw q]
      exact nofun
    · exact absurd hbringup hi

end

/-- Settles O39: the words change by stores to the command's own places only, the schedule by none. -/
theorem commandsWriteOnlyTheirRegisters : Obligations.CommandsWriteOnlyTheirRegisters := by
  intro i s t hw hon hfixup hraw h
  have hsched := exec_sched h
  rcases exec_words_cases hon h with ⟨hcsr, hext⟩ | ⟨p, e, ad, u, hmem, hplace, hwrite, hcsr, hext⟩
  · exact ⟨fun _ r _ => State.readReg_congr hcsr hsched.1 r, fun _ => hext, hsched⟩
  · have hsrc : t.intSrc = u.intSrc := hsched.1.trans (State.memWrite_sameButWords hwrite).intSrc.symm
    exact ⟨fun hi r hr => (State.readReg_congr hcsr hsrc r).trans
        (readReg_of_store hw hfixup hi hmem hplace hwrite hr),
      fun hi => hext.trans (ext_of_store hw hraw hi hmem hplace hwrite), hsched⟩

/-! ## Masked writes -/

theorem storesMasked_readRst : StoresMasked readRst :=
  storesMasked_of_no_store (by simp [readRst])

theorem storesMasked_singleton {op : MicroOp} (h : ∀ p e, op ≠ .st p e := by nofun) :
    StoresMasked [op] :=
  storesMasked_of_no_store fun p e hmem => h p e (List.mem_singleton.mp hmem).symm

theorem storesMasked_setRst (e : Expr) : StoresMasked (setRst e) :=
  (storesMasked_maskedWrite _ _ _).append (storesMasked_maskedWrite _ _ _)

theorem storesMasked_changeRst (e : Expr) : StoresMasked (changeRst e) :=
  (storesMasked_readRst.append (storesMasked_of_no_store (by simp))).append (storesMasked_setRst _)

theorem storesMasked_setClkConst (c : Config) (v : BitVec 4) : StoresMasked (setClkConst c v) :=
  storesMasked_maskedWrite _ _ _

theorem storesMasked_bringupRelease (c : Config) (clocks : BitVec 4) (lines : Word) :
    StoresMasked (bringupRelease c clocks lines) :=
  ((storesMasked_setClkConst _ _).append (storesMasked_changeRst _)).append
    (storesMasked_setClkConst _ _)

theorem storesMasked_toggleBody : StoresMasked toggleBody :=
  ((((storesMasked_readRst.append storesMasked_singleton).append
    (storesMasked_setRst _)).append storesMasked_singleton).append
    storesMasked_singleton).append (storesMasked_setRst _)

theorem storesMasked_bringupBody (c : Config) : StoresMasked (bringupBody c) :=
  ((((((storesMasked_changeRst _).append
    ((storesMasked_setClkConst _ _).append (storesMasked_setClkConst _ _))).append
    (storesMasked_bringupRelease _ _ _)).append (storesMasked_bringupRelease _ _ _)).append
    (storesMasked_bringupRelease _ _ _)).append (storesMasked_setClkConst _ _)).append
    (storesMasked_maskedWrite _ _ _)

/-- A body of masked writes between ACQ and REL. -/
theorem StoresMasked.guarded {body : List MicroOp} (h : StoresMasked body) :
    StoresMasked (.acq :: (body ++ [.rel])) :=
  StoresMasked.append (l := [.acq]) storesMasked_singleton
    (h.append storesMasked_singleton)

/-- Every store of the six commands that read before they write is a masked write's (R102). -/
theorem storesMasked_program (c : Config) {i : Instr}
    (hi : i ∈ [Instr.rawWriteMasked, .setIspClock, .setReset, .toggleReset, .bringup] ∨
      ∃ bus off, i = .setAxiMode bus off) : StoresMasked (program c i) := by
  rcases hi with hi | ⟨bus, off, rfl⟩
  · simp only [List.mem_cons, List.not_mem_nil, or_false] at hi
    rcases hi with rfl | rfl | rfl | rfl | rfl
    · exact storesMasked_maskedWrite _ _ _
    · exact storesMasked_maskedWrite _ _ _
    · exact storesMasked_setRst _
    · exact storesMasked_toggleBody.guarded
    · exact (storesMasked_bringupBody c).guarded
  · exact storesMasked_maskedWrite _ _ _

/-- Under CLK_MASK an encoded clock value is whole (R81). -/
theorem clkEncode_and_clkMask {c : Config} (h : clkBitsOk c = true) (v : BitVec 4) :
    clkEncode c v &&& clkMask c = clkEncode c v := by
  rw [← clkEncode_clkDecode, clkDecode_clkEncode h]

section
variable {i : Instr} {s : State}

/-- The current micro-op, from the micro-program and the counter. -/
theorem State.currentOp_eq {prog : List MicroOp} {k : Nat} (hprog : (s.agent s.turn).uprog = prog)
    (hk : (s.agent s.turn).upc = k) : s.currentOp = prog[k]? := by
  rw [State.currentOp, hprog, hk]

theorem State.uprog_ne_nil_of_currentOp {op : MicroOp} (h : s.currentOp = some op) :
    (s.agent s.turn).uprog ≠ [] := by
  rintro hnil
  simp [State.currentOp, hnil] at h

/-- The step at a store to a register (R100). -/
theorem exec_store_reg (hw : s.WindowOk) (henabled : s.enabled s.turn = true) {r : Reg} {e : Expr}
    {v : Word} (hop : s.currentOp = some (.st (.reg r) e)) (hv : eval s.cfg (s.agent s.turn) e = v) :
    ∃ t, exec i s = .next t ∧ t.csr = (s.writeReg r v).csr := by
  subst hv
  refine ⟨_, (exec_running henabled (State.uprog_ne_nil_of_currentOp hop) hop).trans
    (runOp_st_reg hw _ _ _), rfl⟩

/-- The step at a masked store records and stores the masked value of the agent's own x[3]. -/
theorem exec_masked_store {p : Place} {m v : Expr} {ad : Addr} {w : Word}
    (henabled : s.enabled s.turn = true) (hop : s.currentOp = some (.st p (maskedExpr m v)))
    (hplace : s.placeAddr (s.agent s.turn) p = some ad) (htarget : s.target ad ≠ none)
    (hw : w = maskedValue (s.agent s.turn).tmp.x3 (eval s.cfg (s.agent s.turn) m)
      (eval s.cfg (s.agent s.turn) v)) :
    ∃ t, exec i s = .next t ∧ t.history = s.history ++ [.wr s.turn ad w] ∧
      ∀ u, s.storedWord ad = some u → t.storedWord ad = some w := by
  obtain ⟨x, hx⟩ := Option.ne_none_iff_exists'.mp htarget
  obtain ⟨t, hwrite⟩ := State.exists_memWrite hx w
  have heval : eval s.cfg (s.agent s.turn) (maskedExpr m v) = w := hw ▸ rfl
  refine ⟨_, (exec_running henabled (State.uprog_ne_nil_of_currentOp hop) hop).trans
    (runSt_eq hplace (heval ▸ hwrite)), ?_, fun u hu => State.storedWord_memWrite_self (u := t) hwrite hu⟩
  rw [heval]
  exact congrArg (· ++ [_]) (State.memWrite_frame hwrite).2

end

/-- Settles O36: the masked store, the micro-programs, and the four words. -/
theorem maskedWriteOverwritesWhatFellBetween : Obligations.MaskedWriteOverwritesWhatFellBetween := by
  refine ⟨fun i s p m v ad w henabled hop hplace htarget hw =>
      exec_masked_store henabled hop hplace htarget hw,
    fun c i k p e hi hk => storesMasked_program c hi k p e hk, fun s hw henabled => ?_⟩
  have hclk := clkBitsOk_of_configOk hw.1
  refine ⟨fun hprog hk => ?_, fun hprog hk => ?_, fun hprog hk => ?_, fun bus off hprog hk => ?_⟩
  · refine exec_store_reg (r := .rstclk) hw henabled (State.currentOp_eq hprog hk) ?_
    rw [eval_maskedExpr, maskedValue]
    exact congrArg _ (clkEncode_and_clkMask hclk _)
  · exact exec_store_reg (r := .rstclk) hw henabled (State.currentOp_eq hprog hk) rfl
  · exact exec_store_reg (r := .blken) hw henabled (State.currentOp_eq hprog hk) rfl
  · refine exec_store_reg (r := .axisw) hw henabled (State.currentOp_eq hprog hk) ?_
    cases off <;> simp [eval_maskedExpr, maskedValue, eval]

/-- Settles O37: the RET decodes the two temporaries. -/
theorem getResetReturnsWhatItsTwoReadsGave : Obligations.GetResetReturnsWhatItsTwoReadsGave := by
  intro s henabled hprog hk
  have hop : s.currentOp = some (.ret rstRead) := State.currentOp_eq hprog hk
  refine ⟨_, exec_running henabled (State.uprog_ne_nil_of_currentOp hop) hop, ?_, rfl⟩
  rw [State.record_agent, State.agent_modAgent_self _ _ _ (by simp [State.lookup_of_enabled henabled]),
    Agent.advance_rdata]
  rfl

end Sys2Proof.Machine
end

section
/-! PROOFS of the family other, the short commands with no other agent in between: one lemma for each shape
of micro-program (read and return, full write, masked write), then the commands. -/

namespace Sys2Proof.Machine

section
variable {s s' : State} {g : Agent} {prog : List MicroOp} {k : Nat} {tf : Temps → Temps}
  {c c' : Csr} {x : Word} {gd : Guard} {es : List Event} {i : Instr} {ad : Addr} {v : Word}

/-! ## Expressions -/

/-- An expression reads the temporaries and the latches DATA and MASK only (R100). -/
theorem eval_congr {g' : Agent} (htmp : g'.tmp = g.tmp) (hdata : g'.data = g.data)
    (hmask : g'.mask = g.mask) (cf : Config) (e : Expr) : eval cf g' e = eval cf g e := by
  induction e with
  | const w => rfl
  | x j => simp only [eval, htmp]
  | data => exact hdata
  | mask => exact hmask
  | and a b iha ihb | or a b iha ihb | xor a b iha ihb | rstDecode a b iha ihb =>
    simp only [eval, iha, ihb]
  | not a ih | shl a n ih | shr a n ih | clkDecode a ih | clkEncode a ih => simp only [eval, ih]

theorem eval_soloAgent (cf : Config) (e : Expr) :
    eval cf (soloAgent prog k tf g) e = eval cf { g with tmp := tf g.tmp } e :=
  eval_congr (g := { g with tmp := tf g.tmp }) (g' := soloAgent prog k tf g) rfl rfl rfl cf e

/-! ## Accesses at an address -/

/-- The address of a place in the normal form is that of the start. -/
theorem State.solo_placeAddr (h : s.SoloStart g) (p : Place) :
    (s.solo s.turn prog k tf c x gd es).placeAddr
      ((s.solo s.turn prog k tf c x gd es).agent s.turn) p = s.placeAddr g p := by
  rw [State.solo_agent h]
  cases p <;> rfl

/-- LD, not the last micro-op, of a word whose read may take a draw. -/
theorem solo_ld_at (h : s.SoloStart g) (hl : gd.lets s.turn) {j : Tmp} {p : Place}
    (ho : prog[k]? = some (.ld j p)) (hk : k + 1 < prog.length) (hp : s.placeAddr g p = some ad)
    (hm : (s.solo s.turn prog k tf c x gd es).memRead ad =
      some (v, s'.solo s.turn prog k tf c x gd es)) :
    exec i (s.solo s.turn prog k tf c x gd es) =
      .next (s'.solo s.turn prog (k + 1) (fun t => (tf t).set j v) c x gd
        (es ++ [.rd s.turn ad v])) := by
  rw [exec_solo h hl ho rfl, runOp, runLd_eq ((State.solo_placeAddr h p).trans hp) hm]
  have hf : (fun g' : Agent => Agent.advance { g' with tmp := g'.tmp.set j v }) ∘
      soloAgent prog k tf = soloAgent prog (k + 1) (fun t => (tf t).set j v) :=
    funext fun g' => advance_soloAgent hk (fun t => t.set j v) g'
  unfold State.solo
  rw [State.solo_mod, hf]

/-- ST, the last micro-op, of a word whose write leaves the registers as `c'`. -/
theorem solo_st_at (h : s.SoloStart g) (hl : gd.lets s.turn) {p : Place} {e : Expr}
    (ho : prog[k]? = some (.st p e)) (hk : k + 1 = prog.length) (hp : s.placeAddr g p = some ad)
    (hv : eval s.cfg (soloAgent prog k tf g) e = v)
    (hm : (s.solo s.turn prog k tf c x gd es).memWrite ad v =
      some (s.solo s.turn prog k tf c' x gd es)) :
    exec i (s.solo s.turn prog k tf c x gd es) =
      .next (({ s with csr := c', ext := x, guard := gd }.modAgent s.turn fun g' =>
        { g'.completed (k + 1) with tmp := tf g'.tmp }).emit (es ++ [Event.wr s.turn ad v])) := by
  have hval : eval (s.solo s.turn prog k tf c x gd es).cfg
      ((s.solo s.turn prog k tf c x gd es).agent s.turn) e = v := by
    rw [State.solo_agent h]
    exact hv
  rw [exec_solo h hl ho rfl, runOp,
    runSt_eq ((State.solo_placeAddr h p).trans hp) (hval.symm ▸ hm), hval]
  have hf : Agent.advance ∘ soloAgent prog k tf =
      fun g' => { g'.completed (k + 1) with tmp := tf g'.tmp } :=
    funext fun g' => advance_soloAgent_last hk g'
  rw [← hf, ← State.solo_mod]
  rfl

end

/-! ## The shapes of the short commands -/

section
variable {s : State} {i : Instr} {v w : Word}

/-- A bound window passes the check of the commands that check nothing else. -/
theorem State.WindowOk.checkBound (hw : s.WindowOk) : s.checkBound = none := by
  simp [State.checkBound, hw.2.1]

/-- A register read and an expression of it returned. -/
theorem execTimes_read_ret {r : Reg} {e : Expr} (hw : s.WindowOk) (hready : s.Ready)
    (hpre : precondition s i = none) (hprog : program s.cfg i = [.ld .x0 (.reg r), .ret e])
    (hv : eval s.cfg { s.agent s.turn with
      tmp := (s.agent s.turn).tmp.set .x0 (s.readReg r) } e = v) :
    execTimes i 3 s = .next
      ((s.modAgent s.turn fun g =>
        { g.completed 2 with tmp := g.tmp.set .x0 (s.readReg r), rdata := v }).emit
        [.rd s.turn (s.regAddr r) (s.readReg r), .ret s.turn v]) := by
  have hstart := State.soloStart_of_ready hw hready
  have hlets := State.lets_of_ready hready
  rw [execTimes_succ i 2 (exec_issue_solo hready hpre), hprog,
    execTimes_succ i 1 (solo_ld hstart hlets rfl Nat.one_lt_two),
    execTimes_succ i 0 (solo_ret hstart hlets rfl rfl ((eval_soloAgent _ _).trans hv))]
  rfl

/-- DATA written to a register, no read first. -/
theorem execTimes_write {r : Reg} (hw : s.WindowOk) (hready : s.Ready)
    (hpre : precondition s i = none) (hprog : program s.cfg i = [.st (.reg r) .data]) :
    execTimes i 2 s = .next
      (({ s with csr := s.csr.store r (s.agent s.turn).data }.modAgent s.turn fun g =>
        g.completed 1).emit [.wr s.turn (s.regAddr r) (s.agent s.turn).data]) := by
  have hstart := State.soloStart_of_ready hw hready
  have hlets := State.lets_of_ready hready
  rw [execTimes_succ i 1 (exec_issue_solo hready hpre), hprog,
    execTimes_succ i 0 (solo_st_last (v := (s.agent s.turn).data) hstart hlets rfl rfl rfl)]
  rfl

/-- A masked write of a register (R102). -/
theorem execTimes_maskedWrite {r : Reg} {m : Word} {e : Expr} (hw : s.WindowOk) (hready : s.Ready)
    (hpre : precondition s i = none)
    (hprog : program s.cfg i = maskedWrite (.reg r) (.const m) e)
    (hv : eval s.cfg { s.agent s.turn with
      tmp := (s.agent s.turn).tmp.set .x3 (s.readReg r) } (maskedExpr (.const m) e) = w) :
    execTimes i 3 s = .next
      (({ s with csr := s.csr.store r w }.modAgent s.turn fun g =>
        { g.completed 2 with tmp := g.tmp.set .x3 (s.readReg r) }).emit
        [.rd s.turn (s.regAddr r) (s.readReg r), .wr s.turn (s.regAddr r) w]) := by
  have hstart := State.soloStart_of_ready hw hready
  have hlets := State.lets_of_ready hready
  rw [execTimes_succ i 2 (exec_issue_solo hready hpre), hprog,
    execTimes_succ i 1 (solo_ld hstart hlets rfl Nat.one_lt_two),
    execTimes_succ i 0 (solo_st_last hstart hlets rfl rfl ((eval_soloAgent _ _).trans hv))]
  rfl

end

/-! ## The clock commands -/

/-- Settles O21: word A is read once and its clock enables returned. -/
theorem getIspClockReturnsTheClockState : Obligations.GetIspClockReturnsTheClockState :=
  fun _ hw hready => execTimes_read_ret (r := .rstclk) hw hready hw.checkBound rfl rfl

/-- A masked write leaves the bits outside its mask (R102). -/
theorem maskedValue_and_not_mask (old m v : Word) : maskedValue old m v &&& ~~~m = old &&& ~~~m := by
  ext j hj
  cases hm : m[j] <;> simp [maskedValue, hm]

/-- The clock state is read from the bits of CLK_MASK. -/
theorem clkDecode_and_clkMask {c : Config} (h : clkBitsOk c = true) (w : Word) :
    clkDecode c (w &&& clkMask c) = clkDecode c w := by
  rw [← clkEncode_clkDecode, clkDecode_clkEncode h]

/-- The clock state after a masked write of the clock bits is the value written (R123). -/
theorem clkDecode_maskedValue {c : Config} (h : clkBitsOk c = true) (old : Word) (v : BitVec 4) :
    clkDecode c (maskedValue old (clkMask c) (clkEncode c v)) = v := by
  rw [← clkDecode_and_clkMask h, maskedValue_and_mask, clkEncode_and_clkMask h, clkDecode_clkEncode h]

/-- Settles O22: the masked write of the clock bits, and what the word then decodes to. -/
theorem setIspClockWritesTheClockBits : Obligations.SetIspClockWritesTheClockBits := by
  intro s hw hready w hdef
  have hclk := clkBitsOk_of_configOk hw.1
  have hmasked : maskedValue s.csr.rstclk (clkMask s.cfg)
      (clkEncode s.cfg ((s.agent s.turn).data.extractLsb' 0 4)) = w := by
    rw [hdef, maskedValue, clkEncode_and_clkMask hclk]
  refine ⟨execTimes_maskedWrite (r := .rstclk) hw hready hw.checkBound rfl hmasked, ?_, ?_⟩
  · rw [← hmasked, clkDecode_maskedValue hclk]
  · rw [← hmasked, maskedValue_and_not_mask]

/-- Settles O23: LPCLK read and returned, and DATA written to it. -/
theorem lowPowerClockIsReadAndWrittenWhole : Obligations.LowPowerClockIsReadAndWrittenWhole :=
  fun _ hw hready => ⟨execTimes_read_ret (r := .lpclk) hw hready hw.checkBound rfl rfl,
    execTimes_write (r := .lpclk) hw hready hw.checkBound rfl⟩

/-! ## The interrupt commands -/

/-- Settles O29: INTSTS is read as the input, and returned. -/
theorem getIntStatusReturnsTheInput : Obligations.GetIntStatusReturnsTheInput :=
  fun _ hw hready => execTimes_read_ret (r := .intsts) hw hready hw.checkBound rfl rfl

/-- Settles O30: INTMSK read and returned, and DATA written to it. -/
theorem interruptMaskIsReadAndWrittenWhole : Obligations.InterruptMaskIsReadAndWrittenWhole :=
  fun _ hw hready => ⟨execTimes_read_ret (r := .intmsk) hw hready hw.checkBound rfl rfl,
    execTimes_write (r := .intmsk) hw hready hw.checkBound rfl⟩

/-! ## SET_AXI_MODE -/

theorem bit_ne_zero {n : Nat} (h : n < 32) : bit n ≠ 0 := by
  intro hzero
  have hbit := congrArg (fun w => BitVec.getLsbD w n) hzero
  simp [bit, h] at hbit

/-- The mode of a bus after the masked write of its bit (R86, R183). -/
theorem axiOffline_maskedValue {bus : Nat} (h : bus < 32) (old : Word) (off : Bool) :
    axiOffline (maskedValue old (axiBit bus) (if off then axiBit bus else 0)) bus = off := by
  rw [axiOffline, maskedValue_and_mask]
  cases off with
  | true => simpa [axiBit] using bit_ne_zero h
  | false => simp

/-- Settles O31: the masked write of the bit of the bus. -/
theorem setAxiModeWritesItsBusBit : Obligations.SetAxiModeWritesItsBusBit := by
  intro s bus off hw hready hbus w hdef
  have hlt : bus < 32 := lt_of_lt_of_le hbus (busCount_of_configOk hw.1).2
  have hmasked : maskedValue s.csr.axisw (axiBit bus) (if off then axiBit bus else 0) = w := by
    rw [hdef]
    cases off <;> simp [maskedValue, axiBit, bit]
  have hpre : precondition s (.setAxiMode bus off) = none := by
    simp [precondition, setAxiModeCheck, hw.checkBound, State.checkBus, hbus, firstFault]
  exact ⟨execTimes_maskedWrite (r := .axisw) hw hready hpre rfl hmasked,
    hmasked ▸ axiOffline_maskedValue hlt _ off⟩

/-! ## The reset commands -/

/-- Settles O24: the two reads in order, then the value decoded from them. -/
theorem getResetReturnsTheResetState : Obligations.GetResetReturnsTheResetState := by
  intro s hw hready
  have hstart := State.soloStart_of_ready hw hready
  have hlets := State.lets_of_ready hready
  rw [execTimes_succ _ 3 (exec_issue_solo (i := .getReset) hready hw.checkBound),
    execTimes_succ _ 2 (solo_ld (j := .x0) (r := .rstclk) hstart hlets rfl (of_decide_eq_true rfl)),
    execTimes_succ _ 1 (solo_ld (j := .x1) (r := .blken) hstart hlets rfl (of_decide_eq_true rfl)),
    execTimes_succ _ 0 (solo_ret (v := s.resetState) hstart hlets rfl rfl rfl)]
  rfl

/-- Settles O25: the masked writes of word A and of word B, and what the two words then decode to. -/
theorem setResetWritesBothWords : Obligations.SetResetWritesBothWords := by
  rintro s hw hready a b d rfl rfl rfl
  have hstart := State.soloStart_of_ready hw hready
  have hlets := State.lets_of_ready hready
  refine ⟨?_, rstDecode_maskedValue s.csr.rstclk s.csr.blken (s.agent s.turn).data⟩
  rw [execTimes_succ _ 4 (exec_issue_solo (i := .setReset) hready hw.checkBound),
    execTimes_succ _ 3 (solo_ld (j := .x3) (r := .rstclk) hstart hlets rfl (of_decide_eq_true rfl)),
    execTimes_succ _ 2 (solo_st (r := .rstclk) hstart hlets rfl (of_decide_eq_true rfl) rfl),
    execTimes_succ _ 1 (solo_ld (j := .x3) (r := .blken) hstart hlets rfl (of_decide_eq_true rfl)),
    execTimes_succ _ 0 (solo_st_last (r := .blken) hstart hlets rfl rfl rfl)]
  rfl

/-! ## The RegisterAccess commands -/

/-- Settles O20: the issue step passes its checks, and BINDOP is the command's only micro-op. -/
theorem bindBindsTheWindow : Obligations.BindBindsTheWindow := by
  intro s hready hbound haligned hfits
  have hpre : precondition s .bind = none := by
    simp [precondition, bindCheck, State.checkUnbound, hbound, checkAligned, haligned,
      State.checkBaseFits_of_le hfits, firstFault]
  have hlookup := State.lookup_of_enabled hready.1
  obtain ⟨hlive, -, -⟩ := hready.agent
  have hissued : lookupAgent (s.issued .bind).agents s.turn = some ((s.agent s.turn).issued bindProg) := by
    rw [State.issued, State.lookup_modAgent_self, hlookup]
    rfl
  have hlets : (s.issued .bind).guard.lets s.turn := State.lets_of_ready (s := s) hready
  have hexcluded := State.excluded_of_lets hlets
  have hop := exec_of_opEnabled (i := .bind) (op := .bindop) hissued hlive hexcluded rfl rfl
  have haddr : ((s.issued .bind).agent s.turn).addr = (s.agent s.turn).addr := by
    simp [State.agent, hissued, Agent.issued]
  have hdone : Agent.advance ∘ (fun g : Agent => g.issued bindProg) = fun g => g.completed 1 := rfl
  rw [execTimes_succ _ 1 (exec_of_precondition_none hready hpre), execTimes_succ _ 0 hop, ← hdone,
    ← State.modAgent_modAgent, ← haddr]
  rfl

/-- An aligned offset inside the bound window passes the checks of the raw commands (R106, R107). -/
theorem rawCheck_eq_none {s : State} (hw : s.WindowOk) (haligned : (s.agent s.turn).addr.toNat % 4 = 0)
    (hlt : (s.agent s.turn).addr.toNat < s.cfg.windowSize) : rawCheck s = none := by
  simp [rawCheck, hw.checkBound, checkAligned, haligned, State.checkOffset, hlt, firstFault]

section
variable {s : State} {off : Addr} {prog : List MicroOp} {k : Nat} {tf : Temps → Temps} {c : Csr}
  {x : Word} {gd : Guard} {es : List Event} {r : Reg}

/-- A raw access at a register's offset is one of the register. -/
theorem State.solo_target_reg (hw : s.WindowOk) (haligned : off.toNat % 4 = 0)
    (hlt : off.toNat < s.cfg.windowSize) (hoff : off.toNat = regOffset s.cfg r) :
    (s.solo s.turn prog k tf c x gd es).target (s.base + off) = some (.reg r) := by
  have htarget := (State.target_window hw haligned hlt).1 r (hoff ▸ regAt_regOffset hw.1 r)
  rw [BitVec.ofNat_toNat, BitVec.setWidth_eq] at htarget
  exact htarget

/-- A raw access at any other offset is one of an unmodelled word. -/
theorem State.solo_target_unmodelled (hw : s.WindowOk) (haligned : off.toNat % 4 = 0)
    (hlt : off.toNat < s.cfg.windowSize) (hoff : ∀ r, off.toNat ≠ regOffset s.cfg r) :
    (s.solo s.turn prog k tf c x gd es).target (s.base + off) = some .unmodelled := by
  have htarget := (State.target_window hw haligned hlt).2 (regAt_eq_none hoff)
  rw [BitVec.ofNat_toNat, BitVec.setWidth_eq] at htarget
  exact htarget

theorem State.solo_memRead_reg (hw : s.WindowOk) (haligned : off.toNat % 4 = 0)
    (hlt : off.toNat < s.cfg.windowSize) (hoff : off.toNat = regOffset s.cfg r) :
    (s.solo s.turn prog k tf c x gd es).memRead (s.base + off) =
      some (s.regOf c r, s.solo s.turn prog k tf c x gd es) := by
  rw [State.memRead, State.solo_target_reg hw haligned hlt hoff]
  cases r <;> rfl

theorem State.solo_memRead_unmodelled (hw : s.WindowOk) (haligned : off.toNat % 4 = 0)
    (hlt : off.toNat < s.cfg.windowSize) (hoff : ∀ r, off.toNat ≠ regOffset s.cfg r) :
    (s.solo s.turn prog k tf c x gd es).memRead (s.base + off) =
      some (Config.freeRead s.drawCount,
        { s with drawCount := s.drawCount + 1 }.solo s.turn prog k tf c x gd es) := by
  rw [State.memRead, State.solo_target_unmodelled hw haligned hlt hoff]
  rfl

theorem State.solo_memWrite_reg (hw : s.WindowOk) (haligned : off.toNat % 4 = 0)
    (hlt : off.toNat < s.cfg.windowSize) (hoff : off.toNat = regOffset s.cfg r) (v : Word) :
    (s.solo s.turn prog k tf c x gd es).memWrite (s.base + off) v =
      some (s.solo s.turn prog k tf (c.store r v) x gd es) := by
  rw [State.memWrite, State.solo_target_reg hw haligned hlt hoff]
  cases r <;> rfl

theorem State.solo_memWrite_unmodelled (hw : s.WindowOk) (haligned : off.toNat % 4 = 0)
    (hlt : off.toNat < s.cfg.windowSize) (hoff : ∀ r, off.toNat ≠ regOffset s.cfg r) (v : Word) :
    (s.solo s.turn prog k tf c x gd es).memWrite (s.base + off) v =
      some (s.solo s.turn prog k tf c x gd es) := by
  rw [State.memWrite, State.solo_target_unmodelled hw haligned hlt hoff]

end

/-- The state after a draw starts the rest of the command as well. -/
theorem State.SoloStart.draw {s : State} {g : Agent} (h : s.SoloStart g) :
    { s with drawCount := s.drawCount + 1 }.SoloStart g := ⟨h.window, h.here, h.live⟩

/-- Settles O32: the read of the word at BASE + ADDR, a register or a draw, then its return. -/
theorem rawReadReturnsTheWindowWord : Obligations.RawReadReturnsTheWindowWord := by
  intro s hw hready haligned hlt
  have hstart := State.soloStart_of_ready hw hready
  have hlets := State.lets_of_ready hready
  have hissue := exec_issue_solo (i := .rawRead) hready (rawCheck_eq_none hw haligned hlt)
  refine ⟨fun r hoff => ?register, fun hoff => ⟨Config.freeRead s.drawCount, ?draw⟩⟩
  case register =>
    rw [execTimes_succ _ 2 hissue,
      execTimes_succ _ 1 (solo_ld_at (p := .raw) (j := .x0) hstart hlets rfl (of_decide_eq_true rfl) rfl
        (State.solo_memRead_reg hw haligned hlt hoff)),
      execTimes_succ _ 0 (solo_ret (v := s.readReg r) hstart hlets rfl rfl rfl)]
    rfl
  case draw =>
    rw [execTimes_succ _ 2 hissue,
      execTimes_succ _ 1 (solo_ld_at (p := .raw) (j := .x0) hstart hlets rfl (of_decide_eq_true rfl) rfl
        (State.solo_memRead_unmodelled hw haligned hlt hoff)),
      execTimes_succ _ 0 (solo_ret (v := Config.freeRead s.drawCount) hstart.draw hlets rfl rfl rfl)]
    rfl

/-- Storing into the registers is the write of the register. -/
theorem State.store_eq_writeReg (s : State) (r : Reg) (v : Word) :
    ({ s with csr := s.csr.store r v } : State) = s.writeReg r v := by
  cases r <;> rfl

/-- Settles O33: the read and the masked write of the word at BASE + ADDR. -/
theorem rawWriteMaskedWritesUnderItsMask : Obligations.RawWriteMaskedWritesUnderItsMask := by
  intro s hw hready haligned hlt
  have hstart := State.soloStart_of_ready hw hready
  have hlets := State.lets_of_ready hready
  have hissue := exec_issue_solo (i := .rawWriteMasked) hready (rawCheck_eq_none hw haligned hlt)
  refine ⟨fun r v w hoff hv hdef => ?register, fun hoff => ⟨Config.freeRead s.drawCount, ?draw⟩⟩
  case register =>
    subst hv hdef
    rw [← State.store_eq_writeReg, execTimes_succ _ 2 hissue,
      execTimes_succ _ 1 (solo_ld_at (p := .raw) (j := .x3) hstart hlets rfl (of_decide_eq_true rfl) rfl
        (State.solo_memRead_reg hw haligned hlt hoff)),
      execTimes_succ _ 0 (solo_st_at (p := .raw) hstart hlets rfl rfl rfl rfl
        (State.solo_memWrite_reg hw haligned hlt hoff _))]
    rfl
  case draw =>
    rw [execTimes_succ _ 2 hissue,
      execTimes_succ _ 1 (solo_ld_at (p := .raw) (j := .x3) hstart hlets rfl (of_decide_eq_true rfl) rfl
        (State.solo_memRead_unmodelled hw haligned hlt hoff)),
      execTimes_succ _ 0 (solo_st_at (s := { s with drawCount := s.drawCount + 1 }) (p := .raw)
        hstart.draw hlets rfl rfl rfl rfl
        (State.solo_memWrite_unmodelled (s := { s with drawCount := s.drawCount + 1 }) hw haligned hlt
          hoff _))]
    rfl

end Sys2Proof.Machine
end

section
/-! PROOFS of the family other, the bodies of the guarded commands: what they make of the temporaries, the
words and the events, as a function of the micro-ops alone, and the runs with no other agent in between. -/

namespace Sys2Proof.Machine

/-! ## A body as a function -/

/-- What the micro-ops of a body have made: of the temporaries, the registers and the fixup register, with
the events they recorded. -/
structure Local where
  tf : Temps → Temps
  csr : Csr
  ext : Word
  log : List Event

/-- The agent's record as the next micro-op evaluates it. -/
def Local.record (L : Local) (g : Agent) : Agent := { g with tmp := L.tf g.tmp }

/-- The word a body reads at a place. -/
def Local.word (L : Local) (s : State) : Place → Word
  | .reg r => s.regOf L.csr r
  | .raw => 0
  | .fixup => L.ext

/-- The words after a store to a place. -/
def Local.put (L : Local) (p : Place) (v : Word) : Local :=
  match p with
  | .reg r => { L with csr := L.csr.store r v }
  | .raw => L
  | .fixup => { L with ext := v }

/-- The address of a place of a body. -/
def State.bodyAddr (s : State) (g : Agent) (p : Place) : Addr := (s.placeAddr g p).getD 0

/-- One micro-op of a body that agent `a` runs, its latches in `g` and its window and configuration in
`s`. -/
def Local.op (s : State) (a : AgentId) (g : Agent) (L : Local) : MicroOp → Local
  | .ld j p => { L with
      tf := fun t => (L.tf t).set j (L.word s p)
      log := L.log ++ [.rd a (s.bodyAddr g p) (L.word s p)] }
  | .st p e => { L.put p (eval s.cfg (L.record g) e) with
      log := L.log ++ [.wr a (s.bodyAddr g p) (eval s.cfg (L.record g) e)] }
  | .set j e => { L with tf := fun t => (L.tf t).set j (eval s.cfg (L.record g) e) }
  | .wait us => { L with log := L.log ++ [.wait a us] }
  | .ret _ => L
  | .bindop => L
  | .acq => L
  | .rel => L

/-- A body from its start. -/
def Local.run (s : State) (a : AgentId) (g : Agent) (L : Local) (ops : List MicroOp) : Local :=
  ops.foldl (Local.op s a g) L

/-- The micro-ops of bodies. -/
def MicroOp.inBody : MicroOp → Bool
  | .ld _ _ => true
  | .st _ _ => true
  | .set _ _ => true
  | .ret _ => false
  | .bindop => false
  | .acq => false
  | .rel => false
  | .wait _ => true

/-- The places of bodies: registers, and the fixup register outside the window. -/
def State.BodyPlace (s : State) : Place → Prop
  | .reg _ => True
  | .raw => False
  | .fixup => ∃ n, s.cfg.extFixupAddr = some n ∧
      ¬ (s.base.toNat ≤ n ∧ n < s.base.toNat + s.cfg.windowSize)

/-- A list of micro-ops that a guarded command can have between its ACQ and its REL. -/
def State.IsBody (s : State) (ops : List MicroOp) : Prop :=
  ∀ op ∈ ops, op.inBody = true ∧ ∀ p ∈ op.place, s.BodyPlace p

theorem toggleBody_isBody (s : State) : s.IsBody toggleBody := by
  have hplaces : AccessesOnly s.BodyPlace toggleBody := by
    have hreg : ∀ r, s.BodyPlace (.reg r) := fun _ => trivial
    simp [toggleBody, MicroOp.place, accessesOnly_readRst hreg, accessesOnly_setRst hreg]
  have hkinds : ∀ op ∈ toggleBody, op.inBody = true := List.all_eq_true.mp rfl
  exact fun op hop => ⟨hkinds op hop, hplaces op hop⟩

theorem bringupBody_isBody {s : State} (hfixup : s.BodyPlace .fixup) : s.IsBody (bringupBody s.cfg) := by
  have hplaces : AccessesOnly s.BodyPlace (bringupBody s.cfg) := by
    have hreg : ∀ r, s.BodyPlace (.reg r) := fun _ => trivial
    simp [bringupBody, bringupStep1, bringupStep2, bringupStep6, bringupStep7, setClkConst, hfixup,
      accessesOnly_changeRst hreg, accessesOnly_setClk hreg, accessesOnly_bringupRelease hreg]
  have hkinds : ∀ op ∈ bringupBody s.cfg, op.inBody = true := List.all_eq_true.mp rfl
  exact fun op hop => ⟨hkinds op hop, hplaces op hop⟩

/-! ## A body run with no other agent in between -/

section
variable {s : State} {g : Agent} {prog : List MicroOp} {k : Nat} {L : Local} {gd : Guard} {i : Instr}

/-- The normal form of the state at micro-op `k`, with what the body has made so far. -/
def State.soloAt (s : State) (prog : List MicroOp) (k : Nat) (L : Local) (gd : Guard) : State :=
  s.solo s.turn prog k L.tf L.csr L.ext gd L.log

theorem eval_soloAgent_eq_record (e : Expr) :
    eval s.cfg (soloAgent prog k L.tf g) e = eval s.cfg (L.record g) e := eval_soloAgent s.cfg e

/-- One micro-op of a body, run alone. -/
theorem solo_op (h : s.SoloStart g) (hl : gd.lets s.turn) {op : MicroOp} (ho : prog[k]? = some op)
    (hk : k + 1 < prog.length) (hkind : op.inBody = true) (hplace : ∀ p ∈ op.place, s.BodyPlace p) :
    exec i (s.soloAt prog k L gd) = .next (s.soloAt prog (k + 1) (L.op s s.turn g op) gd) := by
  cases op with
  | ret | bindop | acq | rel => exact nomatch hkind
  | set j e => exact solo_set h hl ho hk (eval_soloAgent_eq_record e)
  | wait us => exact solo_wait h hl ho hk
  | ld j p =>
    cases p with
    | reg r => exact solo_ld h hl ho hk
    | raw => exact (hplace _ rfl).elim
    | fixup =>
      obtain ⟨n, hn, hout⟩ := hplace _ rfl
      have haddr : s.bodyAddr g .fixup = BitVec.ofNat 64 n := by
        simp [State.bodyAddr, State.placeAddr, hn]
      rw [Local.op, haddr]
      exact solo_ld_fixup h hl hn hout ho hk
  | st p e =>
    cases p with
    | reg r => exact solo_st h hl ho hk (eval_soloAgent_eq_record e)
    | raw => exact (hplace _ rfl).elim
    | fixup =>
      obtain ⟨n, hn, hout⟩ := hplace _ rfl
      have haddr : s.bodyAddr g .fixup = BitVec.ofNat 64 n := by
        simp [State.bodyAddr, State.placeAddr, hn]
      rw [Local.op, haddr]
      exact solo_st_fixup h hl hn hout ho hk (eval_soloAgent_eq_record e)

/-- A body in the middle of a micro-program, run alone. -/
theorem solo_body (h : s.SoloStart g) (hl : gd.lets s.turn) (n : Nat) {post : List MicroOp}
    (hpost : post ≠ []) :
    ∀ (ops pre : List MicroOp) (L : Local), s.IsBody ops →
      execTimes i (ops.length + n) (s.soloAt (pre ++ ops ++ post) pre.length L gd) =
        execTimes i n (s.soloAt (pre ++ ops ++ post) (pre.length + ops.length)
          (L.run s s.turn g ops) gd) := by
  intro ops
  induction ops with
  | nil => intro pre L _; simp [Local.run]
  | cons op ops ih =>
    intro pre L hbody
    obtain ⟨⟨hkind, hplace⟩, hrest⟩ := List.forall_mem_cons.mp hbody
    have hpos := List.length_pos_iff.mpr hpost
    have hop := solo_op (i := i) (L := L) (prog := pre ++ op :: ops ++ post) (k := pre.length) h hl
      (by simp) (by simp; omega) hkind hplace
    have htail := ih (pre ++ [op]) (L.op s s.turn g op) hrest
    simp only [List.append_assoc, List.singleton_append, List.length_append, List.length_singleton]
      at htail
    rw [List.length_cons, Nat.add_right_comm, execTimes_succ _ _ hop]
    simpa [Nat.add_assoc, Nat.add_comm, Nat.add_left_comm, Local.run] using htail

/-- A guarded command run alone: the issue step, ACQ, its body and REL (R140, R150, R155). -/
theorem execTimes_guarded {body : List MicroOp} (hw : s.WindowOk) (hready : s.Ready)
    (hfree : s.guard = .free) (hpre : precondition s i = none)
    (hprog : program s.cfg i = .acq :: (body ++ [.rel])) (hbody : s.IsBody body) {L : Local}
    (hL : Local.run s s.turn (s.agent s.turn) ⟨id, s.csr, s.ext, [.acq s.turn]⟩ body = L) :
    execTimes i (body.length + 3) s = .next
      (({ s with csr := L.csr, ext := L.ext }.modAgent s.turn fun g =>
        { g.completed (body.length + 2) with tmp := L.tf g.tmp }).emit (L.log ++ [Event.rel s.turn])) := by
  subst hL
  have hstart := State.soloStart_of_ready hw hready
  have hissue := exec_issue_solo hready hpre
  rw [hfree] at hissue
  have hheld : (Guard.held s.turn).lets s.turn := by
    intro a ha
    obtain rfl := Guard.held.inj ha
    simp
  have hrun := solo_body (i := i) hstart hheld 1 (post := [.rel]) nofun body [.acq]
    ⟨id, s.csr, s.ext, [.acq s.turn]⟩ hbody
  rw [execTimes_succ i (body.length + 2) hissue, hprog,
    execTimes_succ i (body.length + 1) (solo_acq hstart rfl (by simp))]
  refine hrun.trans ?_
  have hat : ([MicroOp.acq] ++ body ++ [MicroOp.rel])[([MicroOp.acq] : List MicroOp).length + body.length]? =
      some .rel := by
    simp [Nat.add_comm 1]
  have hlast : ([MicroOp.acq] : List MicroOp).length + body.length + 1 =
      ([MicroOp.acq] ++ body ++ [MicroOp.rel]).length := by
    simp [Nat.add_comm]
  refine (execTimes_succ i 0 (solo_rel hstart hat hlast)).trans ?_
  rw [← hfree, Nat.add_comm [MicroOp.acq].length]
  rfl

end

/-! ## TOGGLE_RESET -/

/-- A second masked write under one mask replaces the first. -/
theorem maskedValue_maskedValue (old m u v : Word) :
    maskedValue (maskedValue old m u) m v = maskedValue old m v := by
  ext j hj
  cases hm : m[j] <;> simp [maskedValue, hm]

/-- Lines asserted and then de-asserted are de-asserted (R151). -/
theorem or_and_not_self (r m : Word) : (r ||| m) &&& ~~~m = r &&& ~~~m := by
  ext j hj
  cases hm : m[j] <;> simp [hm]

/-- What the body of TOGGLE_RESET makes of the words and which events it records (R150). -/
theorem run_toggleBody (s : State) (a : AgentId) (g : Agent) {es : List Event}
    {a₀ b₀ m r a₁ b₁ a₂ b₂ : Word} (ha₀ : a₀ = s.csr.rstclk) (hb₀ : b₀ = s.csr.blken)
    (hm : m = g.mask) (hr : r = rstDecode a₀ b₀) (ha₁ : a₁ = maskedValue a₀ rstMaskA (r ||| m))
    (hb₁ : b₁ = maskedValue b₀ rstMaskB ((r ||| m) >>> rstShiftB))
    (ha₂ : a₂ = maskedValue a₀ rstMaskA (r &&& ~~~m))
    (hb₂ : b₂ = maskedValue b₀ rstMaskB ((r &&& ~~~m) >>> rstShiftB)) :
    Local.run s a g ⟨id, s.csr, s.ext, es⟩ toggleBody =
      ⟨fun _ => ⟨a₀, b₀, r &&& ~~~m, b₁⟩, { s.csr with rstclk := a₂, blken := b₂ }, s.ext, es ++
        [.rd a (s.regAddr .rstclk) a₀, .rd a (s.regAddr .blken) b₀,
          .rd a (s.regAddr .rstclk) a₀, .wr a (s.regAddr .rstclk) a₁,
          .rd a (s.regAddr .blken) b₀, .wr a (s.regAddr .blken) b₁,
          .wait a tSettleUs,
          .rd a (s.regAddr .rstclk) a₁, .wr a (s.regAddr .rstclk) a₂,
          .rd a (s.regAddr .blken) b₁, .wr a (s.regAddr .blken) b₂]⟩ := by
  have hx2 : (r ||| m) &&& ~~~m = r &&& ~~~m := or_and_not_self r m
  have hA : maskedValue a₁ rstMaskA (r &&& ~~~m) = a₂ := by rw [ha₁, maskedValue_maskedValue, ha₂]
  have hB : maskedValue b₁ rstMaskB ((r &&& ~~~m) >>> rstShiftB) = b₂ := by
    rw [hb₁, maskedValue_maskedValue, hb₂]
  rw [← hA, ← hB, ← hx2]
  subst ha₀ hb₀ hm hr ha₁ hb₁
  simp only [Local.run, toggleBody, readRst, setRst, maskedWrite, List.cons_append, List.nil_append,
    List.foldl_cons, List.foldl_nil, Local.op, List.append_assoc]
  rfl

/-- Settles O26: the command is its body between ACQ and REL, and the body's words and events are those
of `run_toggleBody`. -/
theorem toggleResetRunsItsTrace : Obligations.ToggleResetRunsItsTrace := by
  intro s hw hready hfree a₀ b₀ m r a₁ b₁ a₂ b₂ ha₀ hb₀ hm hr ha₁ hb₁ ha₂ hb₂
  have hbody := run_toggleBody s s.turn (s.agent s.turn) (es := [.acq s.turn]) ha₀ hb₀ hm
    (by rw [hr, ha₀, hb₀]; rfl) ha₁ hb₁ ha₂ hb₂
  refine ⟨?_, ?_⟩
  · have hrun := execTimes_guarded (i := .toggleReset) hw hready hfree hw.checkBound toggleResetProg_eq
      (toggleBody_isBody s) hbody
    exact hrun
  · rw [ha₂, hb₂]
    exact rstDecode_maskedValue a₀ b₀ (r &&& ~~~m)

end Sys2Proof.Machine
end

section
/-! PROOFS of the family other, BRINGUP: the words A and B as the clock value and the reset value written
into them, step by step of R156 to R162. -/

namespace Sys2Proof.Machine

/-! ## Masked values under two masks -/

section
variable {m n : Word}

theorem getElem_of_disjoint (h : m &&& n = 0) {j : Nat} (hj : j < 32) (hm : m[j] = true) :
    n[j] = false := by
  have hbit := congrArg (fun w => w[j]) h
  simpa [hm] using hbit

/-- Masked writes under masks without a common bit commute. -/
theorem maskedValue_comm (h : m &&& n = 0) (old u v : Word) :
    maskedValue (maskedValue old m u) n v = maskedValue (maskedValue old n v) m u := by
  ext j hj
  cases hm : m[j] with
  | true => simp [maskedValue, hm, getElem_of_disjoint h hj hm]
  | false => cases hn : n[j] <;> simp [maskedValue, hm, hn]

/-- A masked write leaves what another mask shows, without a common bit. -/
theorem maskedValue_and_disjoint (h : m &&& n = 0) (old v : Word) :
    maskedValue old m v &&& n = old &&& n := by
  ext j hj
  cases hm : m[j] with
  | true => simp [maskedValue, hm, getElem_of_disjoint h hj hm]
  | false => cases hn : n[j] <;> simp [maskedValue, hm, hn]

/-- A masked write uses the bits of its value under the mask only. -/
theorem maskedValue_congr {u v : Word} (h : u &&& m = v &&& m) (old : Word) :
    maskedValue old m u = maskedValue old m v := by
  rw [maskedValue, maskedValue, h]

/-- Writing a word's own bits back changes nothing. -/
theorem maskedValue_eq_self {old v : Word} (h : v &&& m = old &&& m) : maskedValue old m v = old := by
  rw [maskedValue_congr h]
  ext j hj
  cases hm : m[j] <;> simp [maskedValue, hm]

/-- Two masked writes of full mask values, written out. -/
theorem maskedValue_twice (h : m &&& n = 0) (old v : Word) :
    maskedValue (maskedValue old n v) m m = (old &&& ~~~(m ||| n)) ||| m ||| (v &&& n) := by
  ext j hj
  cases hm : m[j] with
  | true => simp [maskedValue, hm, getElem_of_disjoint h hj hm]
  | false => cases hn : n[j] <;> simp [maskedValue, hm, hn]

end

/-! ## Words A and B -/

/-- The clock bits of word A lie above its reset bits (R7 (4)). -/
theorem clkMask_and_rstMaskA {c : Config} (h : configOk c = true) : clkMask c &&& rstMaskA = 0 := by
  have hclk := (clkBits_of_configOk h).2
  simp only [List.mem_cons, List.not_mem_nil, or_false, forall_eq_or_imp, forall_eq] at hclk
  refine BitVec.eq_of_getLsbD_eq fun j hj => ?_
  rw [BitVec.getLsbD_and, clkMask_eq_clkEncode, getLsbD_clkEncode]
  by_cases hlow : j < 16
  · have hne : j ≠ c.clkIspTopBit ∧ j ≠ c.clkAxiBit ∧ j ≠ c.clkCsi0Bit ∧ j ≠ c.clkCsi1Bit := by omega
    simp [hne]
  · have hhigh : rstMaskA = (0xcfff#16).setWidth 32 := rfl
    rw [hhigh, BitVec.getLsbD_setWidth, BitVec.getLsbD_of_ge (0xcfff#16) j (by omega)]
    simp

/-- Word A with the clock value `v` and the reset value `r` written into `old`. -/
def wordA (c : Config) (old : Word) (v : BitVec 4) (r : Word) : Word :=
  maskedValue (maskedValue old rstMaskA r) (clkMask c) (clkEncode c v)

/-- Word B with the reset value `r` written into `old`. -/
def wordB (old r : Word) : Word := maskedValue old rstMaskB (r >>> rstShiftB)

section
variable {c : Config}

/-- A clock write replaces the clock value (R123). -/
theorem maskedValue_clk_wordA (old : Word) (u v : BitVec 4) (r : Word) :
    maskedValue (wordA c old u r) (clkMask c) (clkEncode c v) = wordA c old v r :=
  maskedValue_maskedValue _ _ _ _

/-- A reset write replaces the reset value (R134). -/
theorem maskedValue_rst_wordA (h : configOk c = true) (old : Word) (v : BitVec 4) (q r : Word) :
    maskedValue (wordA c old v q) rstMaskA r = wordA c old v r := by
  rw [wordA, maskedValue_comm (clkMask_and_rstMaskA h), maskedValue_maskedValue, wordA]

theorem maskedValue_rst_wordB (old q r : Word) :
    maskedValue (wordB old q) rstMaskB (r >>> rstShiftB) = wordB old r :=
  maskedValue_maskedValue _ _ _ _

/-- The clock value of word A. -/
theorem clkDecode_wordA (h : configOk c = true) (old : Word) (v : BitVec 4) (r : Word) :
    clkDecode c (wordA c old v r) = v := clkDecode_maskedValue (clkBitsOk_of_configOk h) _ v

/-- What a mask inside RST_MASK_A shows of word A. -/
theorem wordA_and (h : configOk c = true) {n : Word} (hn : rstMaskA &&& n = n) (old : Word)
    (v : BitVec 4) (r : Word) : wordA c old v r &&& n = r &&& n := by
  rw [← hn, ← BitVec.and_assoc, wordA, maskedValue_and_disjoint (clkMask_and_rstMaskA h),
    maskedValue_and_mask, BitVec.and_assoc]

/-- The reset value of the two words (R82, R83). -/
theorem rstDecode_words (h : configOk c = true) (oldA oldB : Word) (v : BitVec 4) (r : Word) :
    rstDecode (wordA c oldA v r) (wordB oldB r) = r &&& rstLogicalMask := by
  have hA : wordA c oldA v r &&& rstMaskA = maskedValue oldA rstMaskA r &&& rstMaskA := by
    rw [wordA, maskedValue_and_disjoint (clkMask_and_rstMaskA h)]
  rw [rstDecode, hA]
  exact rstDecode_maskedValue oldA oldB r

/-- The two masks of a logical reset value share no bit, and both lie in RST_LOGICAL_MASK. -/
theorem rstDecode_and_rstMaskA (a b : Word) : rstDecode a b &&& rstMaskA = a &&& rstMaskA := by
  have hdisjoint : (rstMaskB <<< rstShiftB) &&& rstMaskA = 0 := by decide
  rw [rstDecode, BitVec.shiftLeft_and_distrib, BitVec.and_or_distrib_right, BitVec.and_assoc,
    BitVec.and_assoc, hdisjoint]
  simp

theorem rstDecode_shift_and_rstMaskB (a b : Word) :
    (rstDecode a b >>> rstShiftB) &&& rstMaskB = b &&& rstMaskB := by
  have hmask : rstMaskB = (BitVec.allOnes 2).setWidth 32 := by decide
  refine BitVec.eq_of_getLsbD_eq fun j hj => ?_
  rw [BitVec.getLsbD_and, BitVec.getLsbD_and, hmask, BitVec.getLsbD_setWidth]
  by_cases hlow : j < 2
  · have hbit := congrArg (fun w => BitVec.getLsbD w j) (rstDecode_split a b)
    simp only [BitVec.getLsbD_extractLsb', hlow, decide_true, Bool.true_and, Nat.zero_add] at hbit
    rw [BitVec.getLsbD_ushiftRight, rstShiftB, hbit]
  · rw [BitVec.getLsbD_of_ge (BitVec.allOnes 2) j (by omega)]
    simp

/-- The words hold their own clock and reset values. -/
theorem wordA_self (a b : Word) : wordA c a (clkDecode c a) (rstDecode a b) = a := by
  rw [wordA, maskedValue_eq_self (rstDecode_and_rstMaskA a b), clkEncode_clkDecode]
  exact maskedValue_eq_self (by rw [BitVec.and_assoc, BitVec.and_self])

theorem wordB_self (a b : Word) : wordB b (rstDecode a b) = b :=
  maskedValue_eq_self (rstDecode_shift_and_rstMaskB a b)

/-- The two words depend on the logical bits of the reset value only. -/
theorem wordA_congr {q r : Word} (h : q &&& rstLogicalMask = r &&& rstLogicalMask) (old : Word)
    (v : BitVec 4) : wordA c old v q = wordA c old v r := by
  have hmask : rstLogicalMask &&& rstMaskA = rstMaskA := by decide
  have hA : q &&& rstMaskA = r &&& rstMaskA := by
    rw [← hmask, ← BitVec.and_assoc, h, BitVec.and_assoc]
  rw [wordA, maskedValue_congr hA, wordA]

theorem wordB_congr {q r : Word} (h : q &&& rstLogicalMask = r &&& rstLogicalMask) (old : Word) :
    wordB old q = wordB old r := by
  have hmask : (rstLogicalMask >>> rstShiftB) &&& rstMaskB = rstMaskB := by decide
  have hB : ∀ x : Word, (x >>> rstShiftB) &&& rstMaskB =
      ((x &&& rstLogicalMask) >>> rstShiftB) &&& rstMaskB := fun x => by
    rw [BitVec.ushiftRight_and_distrib, BitVec.and_assoc, hmask]
  exact maskedValue_congr (by rw [hB q, hB r, h]) old

end

/-! ## The blocks of BRINGUP -/

section
variable (s : State) (a : AgentId) (g : Agent) (L : Local)

theorem Local.run_append (l l' : List MicroOp) :
    L.run s a g (l ++ l') = (L.run s a g l).run s a g l' := List.foldl_append

/-- A masked write of a constant into a register (R102). -/
theorem Local.run_maskedWrite_reg (r : Reg) (m : Word) (e : Expr) :
    ∃ g' : Agent, ∀ w, w = maskedValue (s.regOf L.csr r) m (eval s.cfg g' e) →
      (L.run s a g (maskedWrite (.reg r) (.const m) e)).csr = L.csr.store r w ∧
      (L.run s a g (maskedWrite (.reg r) (.const m) e)).ext = L.ext ∧
      (L.run s a g (maskedWrite (.reg r) (.const m) e)).log = L.log ++
        [.rd a (s.regAddr r) (s.regOf L.csr r), .wr a (s.regAddr r) w] := by
  refine ⟨{ g with tmp := (L.tf g.tmp).set .x3 (s.regOf L.csr r) }, fun w hw => ?_⟩
  subst hw
  exact ⟨rfl, rfl, List.append_assoc _ _ _⟩

/-- Reading the reset value, changing it and writing it back (R156, R158 to R160). -/
theorem Local.run_changeRst (e : Expr) :
    ∃ g' : Agent, g'.tmp.x2 = rstDecode L.csr.rstclk L.csr.blken ∧
      ∀ wa wb, wa = maskedValue L.csr.rstclk rstMaskA (eval s.cfg g' e) →
      wb = maskedValue L.csr.blken rstMaskB (eval s.cfg g' e >>> rstShiftB) →
      (L.run s a g (changeRst e)).csr = { L.csr with rstclk := wa, blken := wb } ∧
      (L.run s a g (changeRst e)).ext = L.ext ∧
      (L.run s a g (changeRst e)).log = L.log ++
        [.rd a (s.regAddr .rstclk) L.csr.rstclk, .rd a (s.regAddr .blken) L.csr.blken,
          .rd a (s.regAddr .rstclk) L.csr.rstclk, .wr a (s.regAddr .rstclk) wa,
          .rd a (s.regAddr .blken) L.csr.blken, .wr a (s.regAddr .blken) wb] := by
  refine ⟨(L.run s a g (readRst ++ [.set .x2 rstRead])).record g, rfl, fun wa wb hwa hwb => ?_⟩
  subst hwa hwb
  refine ⟨rfl, rfl, ?_⟩
  simp only [Local.run, changeRst, readRst, setRst, maskedWrite, List.cons_append, List.nil_append,
    List.foldl_cons, List.foldl_nil, Local.op, List.append_assoc]
  rfl

end

/-! ## BRINGUP step by step -/

/-- What the body of BRINGUP has made of the words when it has written the clock value `v` and the reset
value `r` last; `ws` are the words it has written to word A. -/
structure State.AtStep (s : State) (v : BitVec 4) (r : Word) (ws : List Word) (L : Local) : Prop where
  csr : L.csr = { s.csr with
    rstclk := wordA s.cfg s.csr.rstclk v r, blken := wordB s.csr.blken r }
  ext : L.ext = s.ext
  writes : L.log.filterMap (Event.writeTo (s.regAddr .rstclk)) = ws

section
variable {s : State} {a : AgentId} {g : Agent} {L : Local} {v : BitVec 4} {r : Word} {ws : List Word}

/-- Two registers have two addresses. -/
theorem State.regAddr_ne (hw : s.WindowOk) {q p : Reg} (h : q ≠ p) : s.regAddr q ≠ s.regAddr p := by
  intro heq
  have htarget := (State.target_regAddr hw q).symm.trans (heq ▸ State.target_regAddr hw p)
  exact h (Target.reg.inj (Option.some.inj htarget))

/-- The start of the body: the words hold their own values. -/
theorem State.atStep_start {es : List Event}
    (hes : es.filterMap (Event.writeTo (s.regAddr .rstclk)) = []) :
    s.AtStep s.clockState s.resetState [] ⟨id, s.csr, s.ext, es⟩ where
  csr := by rw [State.clockState, State.resetState, wordA_self, wordB_self]
  ext := rfl
  writes := hes

/-- A clock step (R157 to R161). -/
theorem State.AtStep.clockStep (h : s.AtStep v r ws L) (v' : BitVec 4) :
    s.AtStep v' r (ws ++ [wordA s.cfg s.csr.rstclk v' r])
      (L.run s a g (setClkConst s.cfg v')) := by
  obtain ⟨g', hrun⟩ := Local.run_maskedWrite_reg s a g L .rstclk (clkMask s.cfg)
    (.clkEncode (.const (v'.setWidth 32)))
  have hclk : (v'.setWidth 32).extractLsb' 0 4 = v' := by
    ext j hj
    have hlt : j < 32 := by omega
    simp [hlt, BitVec.getLsbD_eq_getElem hj]
  have hold : s.regOf L.csr .rstclk = wordA s.cfg s.csr.rstclk v r := by rw [h.csr]; rfl
  obtain ⟨hcsr, hext, hlog⟩ := hrun (wordA s.cfg s.csr.rstclk v' r) (by
    rw [hold, eval, eval, hclk, maskedValue_clk_wordA])
  refine ⟨?_, hext.trans h.ext, ?_⟩
  · rw [setClkConst, setClk, hcsr, h.csr]
    rfl
  · rw [setClkConst, setClk, hlog, List.filterMap_append, h.writes]
    simp [List.filterMap_cons, Event.writeTo]

/-- A reset step: the value read back, changed bit by bit, and written (R156, R158 to R160). -/
theorem State.AtStep.resetStep (hw : s.WindowOk) (h : s.AtStep v r ws L) {e : Expr} {f : Word → Word}
    (he : ∀ g' : Agent, eval s.cfg g' e = f g'.tmp.x2)
    (hf : ∀ x, f (x &&& rstLogicalMask) &&& rstLogicalMask = f x &&& rstLogicalMask) :
    s.AtStep v (f r) (ws ++ [wordA s.cfg s.csr.rstclk v (f r)])
      (L.run s a g (changeRst e)) := by
  obtain ⟨g', hx2, hrun⟩ := Local.run_changeRst s a g L e
  have hval : eval s.cfg g' e = f (r &&& rstLogicalMask) := by
    rw [he, hx2, h.csr]
    exact congrArg f (rstDecode_words hw.1 _ _ v r)
  obtain ⟨hcsr, hext, hlog⟩ := hrun (wordA s.cfg s.csr.rstclk v (f r)) (wordB s.csr.blken (f r))
    (by rw [hval, h.csr, ← wordA_congr (hf r)]; exact (maskedValue_rst_wordA hw.1 _ v r _).symm)
    (by rw [hval, h.csr, ← wordB_congr (hf r)]; exact (maskedValue_rst_wordB _ r _).symm)
  refine ⟨?_, hext.trans h.ext, ?_⟩
  · rw [hcsr, h.csr]
  · have hne := State.regAddr_ne hw (q := .blken) (p := .rstclk) nofun
    rw [hlog, List.filterMap_append, h.writes]
    simp [List.filterMap_cons, Event.writeTo, hne]

theorem or_and_logical (x l : Word) :
    (x &&& rstLogicalMask ||| l) &&& rstLogicalMask = (x ||| l) &&& rstLogicalMask := by
  rw [BitVec.and_or_distrib_right, BitVec.and_assoc, BitVec.and_self, ← BitVec.and_or_distrib_right]

theorem and_and_logical (x l : Word) :
    (x &&& rstLogicalMask &&& l) &&& rstLogicalMask = (x &&& l) &&& rstLogicalMask := by
  have hreorder : x &&& rstLogicalMask &&& l &&& rstLogicalMask =
      x &&& l &&& (rstLogicalMask &&& rstLogicalMask) := by ac_rfl
  rw [hreorder, BitVec.and_self]

/-- Steps 3 to 5: the clocks of one domain on, its lines released, all clocks off. -/
theorem State.AtStep.release (hw : s.WindowOk) (h : s.AtStep v r ws L) (clocks : BitVec 4)
    (lines : Word) :
    s.AtStep 0x0 (r &&& ~~~lines) (ws ++ [wordA s.cfg s.csr.rstclk clocks r] ++
        [wordA s.cfg s.csr.rstclk clocks (r &&& ~~~lines)] ++
        [wordA s.cfg s.csr.rstclk 0x0 (r &&& ~~~lines)])
      (L.run s a g (bringupRelease s.cfg clocks lines)) := by
  rw [bringupRelease, Local.run_append, Local.run_append]
  exact (((h.clockStep clocks).resetStep hw (f := (· &&& ~~~lines)) (fun _ => rfl)
    fun x => and_and_logical x _).clockStep 0x0)

/-- Step 7 clears bits of the fixup register and leaves the words (R162). -/
theorem Local.run_step7 (s : State) (a : AgentId) (g : Agent) (L : Local) :
    (L.run s a g bringupStep7).csr = L.csr ∧
      (L.run s a g bringupStep7).ext = L.ext &&& ~~~extFixupMask ∧
      (L.run s a g bringupStep7).log = L.log ++ [.rd a (s.bodyAddr g .fixup) L.ext,
        .wr a (s.bodyAddr g .fixup) (L.ext &&& ~~~extFixupMask)] := by
  have hclear : maskedValue L.ext extFixupMask 0 = L.ext &&& ~~~extFixupMask := by
    simp [maskedValue]
  rw [← hclear]
  exact ⟨rfl, rfl, List.append_assoc _ _ _⟩

/-- The reset values of BRINGUP after its steps 1, 3, 4 and 5 (R156, R158 to R160). -/
def bringupResets (c : Config) (r : Word) : Word × Word × Word × Word :=
  (r ||| rst4 c, (r ||| rst4 c) &&& ~~~rstmAxi c, (r ||| rst4 c) &&& ~~~rstmAxi c &&& ~~~rstmIsp c,
    (r ||| rst4 c) &&& ~~~rstmAxi c &&& ~~~rstmIsp c &&& ~~~(rstmCsi0 c ||| rstmCsi1 c))

/-- What the whole body of BRINGUP makes of the words, and the words it writes to word A. -/
theorem run_bringupBody (hw : s.WindowOk) (hfixup : s.BodyPlace .fixup) {es : List Event}
    (hes : es.filterMap (Event.writeTo (s.regAddr .rstclk)) = []) {r₁ r₂ r₃ r₄ : Word}
    (hr : (r₁, r₂, r₃, r₄) = bringupResets s.cfg s.resetState) {A : BitVec 4 → Word → Word}
    (hA : A = wordA s.cfg s.csr.rstclk) {L : Local}
    (hL : Local.run s a g ⟨id, s.csr, s.ext, es⟩ (bringupBody s.cfg) = L) :
    L.csr = { s.csr with rstclk := A 0xF r₄, blken := wordB s.csr.blken r₄ } ∧
    L.ext = s.ext &&& ~~~extFixupMask ∧
    L.log.filterMap (Event.writeTo (s.regAddr .rstclk)) =
      [A s.clockState r₁, A 0xF r₁, A 0x0 r₁, A 0x2 r₁, A 0x2 r₂, A 0x0 r₂, A 0x1 r₂, A 0x1 r₃,
        A 0x0 r₃, A 0xC r₃, A 0xC r₄, A 0x0 r₄, A 0xF r₄] := by
  simp only [bringupResets, Prod.mk.injEq] at hr
  obtain ⟨rfl, rfl, rfl, rfl⟩ := hr
  subst hA hL
  have h1 := (State.atStep_start hes).resetStep (a := a) (g := g) hw
    (e := .or (.x .x2) (.const (rst4 s.cfg))) (f := (· ||| rst4 s.cfg)) (fun _ => rfl)
    fun x => or_and_logical x _
  have h2 := (h1.clockStep (a := a) (g := g) 0xF).clockStep (a := a) (g := g) 0x0
  have h3 := h2.release (a := a) (g := g) hw 0x2 (rstmAxi s.cfg)
  have h4 := h3.release (a := a) (g := g) hw 0x1 (rstmIsp s.cfg)
  have h5 := h4.release (a := a) (g := g) hw 0xC (rstmCsi0 s.cfg ||| rstmCsi1 s.cfg)
  have h6 := h5.clockStep (a := a) (g := g) 0xF
  simp only [bringupBody, Local.run_append, bringupStep1, bringupStep2, bringupStep6]
  obtain ⟨hcsr, hext, hlog⟩ := Local.run_step7 s a g _
  refine ⟨hcsr.trans h6.csr, ?_, ?_⟩
  · rw [hext, h6.ext]
  · obtain ⟨n, hn, hout⟩ := hfixup
    have haddr : s.bodyAddr g .fixup = BitVec.ofNat 64 n := by
      simp [State.bodyAddr, State.placeAddr, hn]
    have hne : BitVec.ofNat 64 n ≠ s.regAddr .rstclk := fun heq => by
      have htarget := State.target_regAddr hw .rstclk
      rw [← heq, State.target_fixup hw.1 hn hout] at htarget
      exact nomatch htarget
    rw [hlog, List.filterMap_append, h6.writes, haddr]
    simp [List.filterMap_cons, Event.writeTo, hne]

end

/-! ## BRINGUP alone -/

section
variable {s : State} {e : Nat}

/-- BRINGUP's checks pass: the window is bound and the fixup word lies outside it (R155, R203). -/
theorem bringupCheck_eq_none (hw : s.WindowOk) (he : s.cfg.extFixupAddr = some e)
    (hout : ¬ (s.base.toNat ≤ e ∧ e < s.base.toNat + s.cfg.windowSize)) : bringupCheck s = none := by
  simp only [bringupCheck, hw.checkBound, State.checkFixup, he, if_neg hout, firstFault]

/-- The four named lines, asserted and released one domain after the other, end de-asserted. -/
theorem bringupResets_last (c : Config) (r : Word) :
    (r ||| rst4 c) &&& ~~~rstmAxi c &&& ~~~rstmIsp c &&& ~~~(rstmCsi0 c ||| rstmCsi1 c) =
      r &&& ~~~rst4 c := by
  have hlines : ∀ x : Word, x &&& ~~~rstmAxi c &&& ~~~rstmIsp c &&& ~~~(rstmCsi0 c ||| rstmCsi1 c) =
      x &&& ~~~rst4 c := fun x => by
    simp only [rst4, BitVec.not_or, BitVec.and_assoc]
  rw [hlines, or_and_not_self]

/-- Word A at the end of BRINGUP, written out (R164). -/
theorem wordA_end {c : Config} (h : configOk c = true) (old r : Word) :
    wordA c old 0xF r = (old &&& ~~~(clkMask c ||| rstMaskA)) ||| clkMask c ||| (r &&& rstMaskA) :=
  maskedValue_twice (clkMask_and_rstMaskA h) old r

/-- BRINGUP with no other agent in between: the issue step and its 54 micro-ops. -/
theorem execTimes_bringup (hw : s.WindowOk) (hready : s.Ready) (hfree : s.guard = .free)
    (he : s.cfg.extFixupAddr = some e)
    (hout : ¬ (s.base.toNat ≤ e ∧ e < s.base.toNat + s.cfg.windowSize)) {L : Local}
    (hL : Local.run s s.turn (s.agent s.turn) ⟨id, s.csr, s.ext, [.acq s.turn]⟩
      (bringupBody s.cfg) = L) :
    execTimes .bringup 55 s = .next
      (({ s with csr := L.csr, ext := L.ext }.modAgent s.turn fun g =>
        { g.completed 54 with tmp := L.tf g.tmp }).emit (L.log ++ [Event.rel s.turn])) :=
  execTimes_guarded (i := .bringup) hw hready hfree (bringupCheck_eq_none hw he hout)
    (bringupProg_eq s.cfg) (bringupBody_isBody ⟨e, he, hout⟩) hL

end

@[simp] theorem State.emit_agent (s : State) (es : List Event) (a : AgentId) :
    (s.emit es).agent a = s.agent a := rfl

/-- Settles O27: the words are those of the body, the last reset value has the four lines de-asserted, and
the rest is the frame of the run. -/
theorem bringupReachesItsEndState : Obligations.BringupReachesItsEndState := by
  intro s e hw hready hfree he hout
  obtain ⟨L, hL⟩ : ∃ L, Local.run s s.turn (s.agent s.turn) ⟨id, s.csr, s.ext, [.acq s.turn]⟩
    (bringupBody s.cfg) = L := ⟨_, rfl⟩
  obtain ⟨hcsr, hext, -⟩ := run_bringupBody hw ⟨e, he, hout⟩ rfl rfl rfl hL
  have hself := State.agent_modAgent_self { s with csr := L.csr, ext := L.ext } s.turn
    (fun g => { g.completed 54 with tmp := L.tf g.tmp }) (by simp [State.lookup_of_enabled hready.1])
  refine ⟨_, execTimes_bringup hw hready hfree he hout hL, ?_, hext, hfree, congrArg Agent.cpc hself,
    congrArg Agent.uprog hself, (congrArg Agent.rdata hself).trans rfl,
    (congrArg Agent.stopped hself).trans hready.agent.1, fun b hb => ?_, rfl, rfl, rfl, rfl⟩
  · refine hcsr.trans ?_
    rw [bringupResets_last, wordA_end hw.1]
    rfl
  · rw [State.emit_agent, State.agent_modAgent_other _ _ _ _ hb]
    rfl

theorem and_and_not_and (r l n : Word) : r &&& ~~~l &&& n = r &&& n &&& ~~~l := by ac_rfl

/-- Settles O28: the words written to word A, decoded and seen through the named lines. -/
theorem bringupShowsItsClockAndResetOrder : Obligations.BringupShowsItsClockAndResetOrder := by
  intro s e hw hready hfree he hout
  obtain ⟨L, hL⟩ : ∃ L, Local.run s s.turn (s.agent s.turn) ⟨id, s.csr, s.ext, [.acq s.turn]⟩
    (bringupBody s.cfg) = L := ⟨_, rfl⟩
  obtain ⟨-, -, hwrites⟩ := run_bringupBody hw ⟨e, he, hout⟩ rfl rfl rfl hL
  refine ⟨_, _, execTimes_bringup hw hready hfree he hout hL, rfl, ?_⟩
  rintro n x i c0 c1 hn rfl rfl rfl rfl
  have hmask : rstMaskA &&& n = n := by
    have hn' : n = rst4 s.cfg &&& rstMaskA := hn
    rw [hn', BitVec.and_comm, BitVec.and_assoc, BitVec.and_self]
  have hreorder := fun r l => and_and_not_and r l n
  have hasserted : (s.resetState ||| rst4 s.cfg) &&& n = n := by
    rw [hn]
    ext j hj
    cases h4 : (rst4 s.cfg)[j] <;> simp [h4]
  rw [List.filterMap_append, hwrites]
  have hlast : [Event.rel s.turn].filterMap (Event.writeTo (s.regAddr .rstclk)) = [] := rfl
  rw [hlast, List.append_nil]
  refine ⟨?_, ?_⟩
  · simp only [List.map_cons, List.map_nil, clkDecode_wordA hw.1]
  · simp only [List.map_cons, List.map_nil, wordA_and hw.1 hmask, hreorder, hasserted]

end Sys2Proof.Machine
end

section
/-! PROOFS of the family other, the guarded commands among other agents: in a run in which nobody else
writes the words of a body and nothing binds, the agent is always at some micro-op of its body, with the
words, the temporaries and the events that the body has made so far. -/

namespace Sys2Proof.Machine

/-! ## The words of a body -/

/-- The word at a place of a body. -/
def State.wordAt (s : State) : Place → Word
  | .reg r => s.readReg r
  | .raw => 0
  | .fixup => s.ext

section
variable {s t u : State} {a b : AgentId} {g : Agent} {p q : Place} {ad : Addr} {v : Word}

/-- A place of a body that a store changes: not INTSTS. -/
def State.StoredPlace (s : State) (p : Place) : Prop := s.BodyPlace p ∧ p ≠ .reg .intsts

theorem State.BodyPlace.congr (h : s.BodyPlace p) (hcfg : u.cfg = s.cfg) (hbase : u.base = s.base) :
    u.BodyPlace p := by
  cases p with
  | reg r => trivial
  | raw => exact h
  | fixup => simpa only [State.BodyPlace, hcfg, hbase] using h

/-- The address of a body's place depends on the configuration and the base only. -/
theorem State.BodyPlace.addr (h : s.BodyPlace p) (hcfg : u.cfg = s.cfg) (hbase : u.base = s.base)
    (g' : Agent) : u.placeAddr g' p = some (s.bodyAddr g p) := by
  cases p with
  | reg r => simp only [State.placeAddr, State.bodyAddr, State.regAddr, hcfg, hbase, Option.getD_some]
  | raw => exact h.elim
  | fixup =>
    obtain ⟨n, hn, -⟩ := h
    simp [State.placeAddr, State.bodyAddr, hcfg, hn]

/-- A body's place names its word. -/
theorem State.BodyPlace.target (h : s.BodyPlace p) (hw : s.WindowOk) :
    (∃ r, p = .reg r ∧ s.bodyAddr g p = s.regAddr r ∧ s.target (s.bodyAddr g p) = some (.reg r)) ∨
      (p = .fixup ∧ s.target (s.bodyAddr g p) = some .ext) := by
  cases p with
  | reg r => exact .inl ⟨r, rfl, rfl, State.target_regAddr hw r⟩
  | raw => exact h.elim
  | fixup =>
    obtain ⟨n, hn, hout⟩ := h
    have haddr : s.bodyAddr g .fixup = BitVec.ofNat 64 n := by
      simp [State.bodyAddr, State.placeAddr, hn]
    exact .inr ⟨rfl, haddr ▸ State.target_fixup hw.1 hn hout⟩

theorem State.BodyPlace.memRead (h : s.BodyPlace p) (hw : s.WindowOk) :
    s.memRead (s.bodyAddr g p) = some (s.wordAt p, s) := by
  rcases h.target (g := g) hw with ⟨r, rfl, -, htarget⟩ | ⟨rfl, htarget⟩
  · rw [State.memRead, htarget]
    rfl
  · rw [State.memRead, htarget]
    rfl

/-- A write to another address leaves the word. -/
theorem State.StoredPlace.memWrite_other (h : s.StoredPlace p) (hw : s.WindowOk)
    (hwrite : s.memWrite ad v = some u) (hne : ad ≠ s.bodyAddr g p) : u.wordAt p = s.wordAt p := by
  obtain ⟨hplace, hint⟩ := h
  rcases hplace.target (g := g) hw with ⟨r, rfl, haddr, -⟩ | ⟨rfl, htarget⟩
  · exact State.readReg_memWrite_other (fun hr => hint (hr ▸ rfl)) hwrite (haddr ▸ hne)
  · exact State.memWrite_ext hwrite fun hext =>
      hne (State.eq_of_target_eq (k := .ext) nofun htarget hext)

/-- A write to its address sets the word. -/
theorem State.StoredPlace.memWrite_self (h : s.StoredPlace p) (hw : s.WindowOk)
    (hwrite : s.memWrite (s.bodyAddr g p) v = some u) : u.wordAt p = v := by
  obtain ⟨hplace, hint⟩ := h
  rcases hplace.target (g := g) hw with ⟨r, rfl, -, htarget⟩ | ⟨rfl, htarget⟩
  · rw [State.memWrite, htarget] at hwrite
    obtain rfl := Option.some.inj hwrite
    exact State.readReg_writeReg_self s r v fun hr => hint (hr ▸ rfl)
  · rw [State.memWrite, htarget] at hwrite
    obtain rfl := Option.some.inj hwrite
    rfl

/-- Two places of a body have two addresses. -/
theorem State.BodyPlace.addr_ne (hp : s.BodyPlace p) (hq : s.BodyPlace q) (hw : s.WindowOk)
    (hne : p ≠ q) : s.bodyAddr g p ≠ s.bodyAddr g q := by
  intro heq
  rcases hp.target (g := g) hw with ⟨r, rfl, -, hr⟩ | ⟨rfl, hr⟩ <;>
    rcases hq.target (g := g) hw with ⟨r', rfl, -, hr'⟩ | ⟨rfl, hr'⟩ <;> rw [heq, hr'] at hr
  · obtain rfl := Target.reg.inj (Option.some.inj hr)
    exact hne rfl
  · exact nomatch hr
  · exact nomatch hr
  · exact hne rfl

/-- A store leaves the temporaries. -/
theorem Local.put_tf (L : Local) (p : Place) (v : Word) : (L.put p v).tf = L.tf := by
  cases p <;> rfl

/-- The words after a store, in what a body has made. -/
theorem Local.word_put_self (L : Local) (hp : s.StoredPlace p) (v : Word) :
    (L.put p v).word s p = v := by
  obtain ⟨hplace, hint⟩ := hp
  cases p with
  | reg r =>
    cases r with
    | intsts => exact absurd rfl hint
    | rstclk | blken | lpclk | intmsk | axisw => rfl
  | raw => exact hplace.elim
  | fixup => rfl

theorem Local.word_put_other (L : Local) (hne : q ≠ p) (v : Word) :
    (L.put p v).word s q = L.word s q := by
  cases p with
  | reg r =>
    cases q with
    | reg r' =>
      have hrr : r' ≠ r := fun h => hne (h ▸ rfl)
      have hread := State.readReg_writeReg_other { s with csr := L.csr } r r' v hrr
      rwa [← State.store_eq_writeReg] at hread
    | raw | fixup => rfl
  | raw => rfl
  | fixup =>
    cases q with
    | reg | raw => rfl
    | fixup => exact absurd rfl hne

/-! ## An agent inside its body -/

/-- What of its agent's record a body depends on. -/
def Agent.bodyPart (g : Agent) : List MicroOp × Nat × Nat × Temps × Word × Word :=
  (g.uprog, g.upc, g.cpc, g.tmp, g.data, g.mask)

/-- In `u`, reached from `s`, the agent `a` is at micro-op `k` of the micro-program of `g`, and the body has
made `L`: the window is where it was, and the words at the places `W` are those of `L`. -/
structure State.Tracks (s : State) (a : AgentId) (g : Agent) (W : List Place) (k : Nat) (L : Local)
    (u : State) : Prop where
  cfg : u.cfg = s.cfg
  bound : u.bound = s.bound
  base : u.base = s.base
  record : (u.agent a).bodyPart = (g.uprog, k, g.cpc, L.tf g.tmp, g.data, g.mask)
  words : ∀ p ∈ W, u.wordAt p = L.word s p

variable {W : List Place} {k : Nat} {L : Local}

theorem State.Tracks.uprog (h : s.Tracks a g W k L u) : (u.agent a).uprog = g.uprog :=
  congrArg Prod.fst h.record

theorem State.Tracks.upc (h : s.Tracks a g W k L u) : (u.agent a).upc = k :=
  congrArg (fun x => x.2.1) h.record

theorem State.Tracks.cpc (h : s.Tracks a g W k L u) : (u.agent a).cpc = g.cpc :=
  congrArg (fun x => x.2.2.1) h.record

theorem State.Tracks.windowOk (h : s.Tracks a g W k L u) (hw : s.WindowOk) : u.WindowOk := by
  simpa only [State.WindowOk, State.BaseOk, h.cfg, h.bound, h.base] using hw

/-- A step that keeps the window, the agent's part and the words. -/
theorem State.Tracks.of_same (h : s.Tracks a g W k L u) (hcfg : t.cfg = u.cfg)
    (hbinding : t.bound = u.bound ∧ t.base = u.base)
    (hrecord : (t.agent a).bodyPart = (u.agent a).bodyPart)
    (hwords : ∀ p ∈ W, t.wordAt p = u.wordAt p) :
    s.Tracks a g W k L t where
  cfg := hcfg.trans h.cfg
  bound := hbinding.1.trans h.bound
  base := hbinding.2.trans h.base
  record := hrecord.trans h.record
  words p hp := (hwords p hp).trans (h.words p hp)

/-- The word at a stored place depends on the registers and the fixup register. -/
theorem State.wordAt_congr (hp : p ≠ .reg .intsts) (hcsr : t.csr = u.csr) (hext : t.ext = u.ext) :
    t.wordAt p = u.wordAt p := by
  cases p with
  | reg r => exact State.readReg_eq_of_csr_eq (fun hr => hp (hr ▸ rfl)) hcsr
  | raw => rfl
  | fixup => exact hext

/-- The beginning of any agent's step leaves the body's part and the words. -/
theorem State.Tracks.begin (h : s.Tracks a g W k L u) (hne : g.uprog ≠ [])
    (hW : ∀ p ∈ W, s.StoredPlace p) (m : AgentId) (rest : List AgentId) :
    s.Tracks a g W k L (u.begin m rest) := by
  refine h.of_same (u.begin_cfg m rest) ⟨u.begin_bound m rest, u.begin_base m rest⟩ ?_
    fun p hp => State.wordAt_congr (hW p hp).2 (u.begin_csr m rest) (u.begin_ext m rest)
  by_cases hma : a = m
  · subst hma
    rw [State.begin_agent_of_running rest (h.uprog ▸ hne)]
  · rw [State.begin_agent_other u rest hma]

/-! ## A micro-op of the body -/

theorem Agent.advance_bodyPart (x : Temps) (hlast : g.upc + 1 ≠ g.uprog.length) :
    (Agent.advance { g with tmp := x }).bodyPart =
      (g.uprog, g.upc + 1, g.cpc, x, g.data, g.mask) := by
  rw [Agent.advance, if_neg hlast]
  rfl

/-- A completed micro-op of the body, its effect on the temporaries and the words being that of `L'`. -/
theorem State.Tracks.advance {L' : Local} {x : Temps} (h : s.Tracks a g W k L u)
    (hlast : k + 1 ≠ g.uprog.length) (hcfg : t.cfg = u.cfg)
    (hbinding : t.bound = u.bound ∧ t.base = u.base)
    (hrecord : t.agent a = Agent.advance { u.agent a with tmp := x }) (htmp : x = L'.tf g.tmp)
    (hwords : ∀ p ∈ W, t.wordAt p = L'.word s p) : s.Tracks a g W (k + 1) L' t where
  cfg := hcfg.trans h.cfg
  bound := hbinding.1.trans h.bound
  base := hbinding.2.trans h.base
  record := by
    have hpart := h.record
    simp only [Agent.bodyPart, Prod.mk.injEq] at hpart
    obtain ⟨huprog, hupc, hcpc, -, hdata, hmask⟩ := hpart
    rw [hrecord, Agent.advance_bodyPart x (by rw [huprog, hupc]; exact hlast), huprog, hupc, hcpc, hdata,
      hmask, htmp]
  words := hwords

/-- The values of a body's expressions are those of the agent's record. -/
theorem State.Tracks.eval_eq (h : s.Tracks a g W k L u) (e : Expr) :
    eval u.cfg (u.agent a) e = eval s.cfg (L.record g) e := by
  have hpart := h.record
  simp only [Agent.bodyPart, Prod.mk.injEq] at hpart
  obtain ⟨-, -, -, htmp, hdata, hmask⟩ := hpart
  rw [h.cfg]
  exact eval_congr (g := L.record g) htmp hdata hmask s.cfg e

/-- The address of a body's place in the tracked state. -/
theorem State.Tracks.bodyAddr_eq (h : s.Tracks a g W k L u) (hp : s.BodyPlace p) :
    u.bodyAddr g p = s.bodyAddr g p := by
  rw [State.bodyAddr, hp.addr (g := g) h.cfg h.base g, Option.getD_some]

/-- One micro-op of its body, run by the agent, does what `Local.op` says. -/
theorem State.Tracks.ownOp {op : MicroOp} (h : s.Tracks a g W k L u) (hw : s.WindowOk)
    (hW : ∀ p ∈ W, s.StoredPlace p) (hkind : op.inBody = true) (hplace : ∀ p ∈ op.place, p ∈ W)
    (hlast : k + 1 ≠ g.uprog.length) (hne : g.uprog ≠ []) (hrun : runOp u a op = .next t) :
    s.Tracks a g W (k + 1) (L.op s a g op) t ∧
      ∃ l, t.history = u.history ++ l ∧ (L.op s a g op).log = L.log ++ l := by
  have hpart := h.record
  simp only [Agent.bodyPart, Prod.mk.injEq] at hpart
  obtain ⟨-, -, -, htmp, -, -⟩ := hpart
  have hisSome : (lookupAgent u.agents a).isSome := by
    simp [State.lookup_of_running (h.uprog ▸ hne : (u.agent a).uprog ≠ [])]
  cases op with
  | ret | bindop | acq | rel => exact nomatch hkind
  | set j e =>
    obtain rfl := Host.Outcome.next.inj hrun
    refine ⟨h.advance hlast rfl ⟨rfl, rfl⟩ (State.agent_modAgent_self u a _ hisSome) ?_ h.words,
      [], (List.append_nil _).symm, (List.append_nil _).symm⟩
    rw [h.eval_eq, htmp]
    rfl
  | wait us =>
    obtain rfl := Host.Outcome.next.inj hrun
    exact ⟨h.advance hlast rfl ⟨rfl, rfl⟩ (State.agent_modAgent_self u a _ hisSome) htmp h.words,
      [.wait a us], rfl, rfl⟩
  | ld j p =>
    have hp := (hW p (hplace p rfl)).1
    have hread := (hp.congr h.cfg h.base).memRead (g := g) (h.windowOk hw)
    rw [h.bodyAddr_eq hp, h.words p (hplace p rfl)] at hread
    obtain rfl := Host.Outcome.next.inj
      ((runLd_eq (hp.addr (g := g) h.cfg h.base _) hread).symm.trans hrun)
    refine ⟨h.advance (x := (u.agent a).tmp.set j (L.word s p)) hlast rfl ⟨rfl, rfl⟩ ?_ ?_ h.words,
      [.rd a (s.bodyAddr g p) (L.word s p)], rfl, rfl⟩
    · rw [State.record_agent, State.agent_modAgent_self u a _ hisSome]
    · rw [htmp]
      rfl
  | st p e =>
    have hp := hW p (hplace p rfl)
    have hpu : u.StoredPlace p := ⟨hp.1.congr h.cfg h.base, hp.2⟩
    obtain ⟨ad, x, had, hwrite, rfl⟩ := runOp_st_inv hrun
    obtain rfl := Option.some.inj ((hp.1.addr (g := g) h.cfg h.base _).symm.trans had)
    rw [h.eval_eq] at hwrite ⊢
    have hsame := State.memWrite_sameButWords hwrite
    have hagent : x.agent a = u.agent a := by rw [State.agent, hsame.agents, State.agent]
    refine ⟨h.advance (x := (u.agent a).tmp) hlast hsame.cfg ⟨hsame.bound, hsame.base⟩ ?_
      (htmp.trans (congrArg (· g.tmp) (L.put_tf p _).symm)) fun q hq => ?_,
      [.wr a (s.bodyAddr g p) (eval s.cfg (L.record g) e)],
      congrArg (· ++ [_]) hsame.history, ?_⟩
    · rw [State.record_agent, State.agent_modAgent_self x a _ (hsame.agents ▸ hisSome), hagent]
    · show x.wordAt q = (L.put p _).word s q
      by_cases hqp : q = p
      · subst hqp
        rw [L.word_put_self hp]
        exact hpu.memWrite_self (g := g) (h.windowOk hw) (h.bodyAddr_eq hp.1 ▸ hwrite)
      · have hqu : u.StoredPlace q := ⟨(hW q hq).1.congr h.cfg h.base, (hW q hq).2⟩
        have haddr := hp.1.addr_ne (g := g) (hW q hq).1 hw (Ne.symm hqp)
        rw [L.word_put_other hqp, ← h.words q hq]
        exact hqu.memWrite_other (g := g) (h.windowOk hw) hwrite (h.bodyAddr_eq (hW q hq).1 ▸ haddr)
    · rfl

/-! ## A step of another agent -/

/-- A step of another agent that disturbs nothing leaves the agent where it was in its body. -/
theorem State.Tracks.otherStep {i : Instr} (h : s.Tracks a g W k L u) (hw : s.WindowOk)
    (hW : ∀ p ∈ W, s.StoredPlace p) (hma : u.turn ≠ a) (hexec : exec i u = .next t)
    (hund : ∀ e, t.history = u.history ++ [e] → e.Undisturbing a (W.map (s.bodyAddr g))) :
    s.Tracks a g W k L t := by
  have hagent := (exec_stepOf hexec).agent_other a hma.symm
  rcases exec_op_cases hexec with ⟨l, es, rfl⟩ | ⟨op, -, hrun⟩
  · exact h.of_same rfl ⟨rfl, rfl⟩ (congrArg _ hagent) fun p hp =>
      State.wordAt_congr (hW p hp).2 rfl rfl
  · have hstep := runOp_opStep hrun
    have hbind : op ≠ .bindop := by
      rintro rfl
      obtain rfl := Host.Outcome.next.inj hrun
      exact (hund _ rfl).2 _ _ rfl
    refine h.of_same hstep.cfg (hstep.binding hbind) (congrArg _ hagent) fun p hp => ?_
    by_cases hst : ∃ q e, op = .st q e
    · obtain ⟨q, e, rfl⟩ := hst
      obtain ⟨ad, x, -, hwrite, rfl⟩ := runOp_st_inv hrun
      have hhist := congrArg (· ++ [Event.wr u.turn ad (eval u.cfg (u.agent u.turn) e)])
        (State.memWrite_sameButWords hwrite).history
      have hne : ad ≠ s.bodyAddr g p := fun heq =>
        (hund _ hhist).1 _ _ _ rfl hma (heq ▸ List.mem_map_of_mem hp)
      have hpu : u.StoredPlace p := ⟨(hW p hp).1.congr h.cfg h.base, (hW p hp).2⟩
      exact hpu.memWrite_other (u := x) (g := g) (h.windowOk hw) hwrite
        (h.bodyAddr_eq (hW p hp).1 ▸ hne)
    · obtain ⟨hcsr, hext⟩ := hstep.words fun q e heq => hst ⟨q, e, heq⟩
      exact State.wordAt_congr (hW p hp).2 hcsr hext

end

/-! ## Runs -/

section
variable {s t u : State} {a : AgentId} {g : Agent}

/-- Completing micro-ops, loading latches and refusing never move a command index back (R33). -/
theorem exec_cpc_le {i : Instr} (h : exec i s = .next t) :
    (s.agent s.turn).cpc ≤ (t.agent s.turn).cpc := by
  rcases exec_cases i s with ⟨-, hexec⟩ | ⟨-, hexec⟩ | ⟨op, -, hne, -, hexec⟩
  · obtain rfl := Host.Outcome.next.inj (hexec.symm.trans h)
    exact le_rfl
  · obtain rfl := Host.Outcome.next.inj (hexec.symm.trans h)
    refine le_of_eq (Eq.symm ?_)
    unfold issue
    cases precondition s i with
    | none =>
      exact State.agent_modAgent_keeps s _ _ (f := fun g => { g with uprog := _, upc := 0 })
        Agent.cpc fun _ => rfl
    | some code =>
      exact State.agent_modAgent_keeps s _ _ (f := fun g => { g with fault := some code })
        Agent.cpc fun _ => rfl
  · obtain ⟨f, hf, hself⟩ := (runOp_opStep (hexec.symm.trans h)).agent_self hne
    rw [hself]
    by_cases hlast : (s.agent s.turn).upc + 1 = (s.agent s.turn).uprog.length
    · rw [(hf.last hlast).2.2]
      omega
    · rw [(hf.not_last hlast).2.2]

theorem State.begin_cpc (s : State) (a b : AgentId) (rest : List AgentId) :
    ((s.begin a rest).agent b).cpc = (s.agent b).cpc := by
  unfold State.begin
  split
  · rw [State.agent_modAgent_keeps _ a b Agent.cpc Agent.loadLatches_cpc, State.agent, State.agent,
      State.sampleInput_agents]
  · rw [State.agent, State.agent, State.sampleInput_agents]

theorem step_cpc_le (h : step s = .next t) (a : AgentId) : (s.agent a).cpc ≤ (t.agent a).cpc := by
  obtain ⟨m, rest, hmover, hm⟩ := step_stepOf h
  by_cases ham : a = m
  · subst ham
    obtain ⟨m', rest', hmover', hcase⟩ := step_cases h
    obtain ⟨rfl, rfl⟩ := Prod.mk.inj (Option.some.inj (hmover.symm.trans hmover'))
    rw [← s.begin_cpc a a rest]
    rcases hcase with ⟨i, -, hexec⟩ | ⟨reason, -, rfl⟩
    · simpa only [State.begin_turn] using exec_cpc_le hexec
    · exact le_of_eq (State.agent_modAgent_keeps _ a a
        (f := fun g => { g with refused := some reason }) Agent.cpc fun _ => rfl).symm
  · rw [hm.agent_other a ham]

/-- The events of other agents are none of the agent's writes and waits. -/
theorem filter_writesOrWaits_of_other {l : List Event} (h : ∀ e ∈ l, e.agent ≠ a) :
    l.filter (Event.writesOrWaits a) = [] := by
  refine List.filter_eq_nil_iff.mpr fun e he htrue => h e he ?_
  cases e with
  | wr | wait => exact of_decide_eq_true htrue
  | bind | rd | acq | rel | ret | fault | refuse => exact nomatch htrue

/-- Where a run from the state just past ACQ has brought the agent: to a micro-op of its body or its REL,
with what the body has made up to there, or past the command. `es` are the events of the run. -/
def State.InBody (s : State) (a : AgentId) (g : Agent) (W : List Place) (body : List MicroOp)
    (u : State) (es : List Event) : Prop :=
  (∃ k L, k ≤ body.length ∧ L = Local.run s a g ⟨id, s.csr, s.ext, []⟩ (body.take k) ∧
      s.Tracks a g W (k + 1) L u ∧
      es.filter (Event.writesOrWaits a) = L.log.filter (Event.writesOrWaits a)) ∨
    g.cpc < (u.agent a).cpc

variable {W : List Place} {body : List MicroOp}

/-- What the run of a body starts from: the agent has just taken the guard. -/
structure State.BodyStart (s : State) (a : AgentId) (g : Agent) (W : List Place) (body : List MicroOp) :
    Prop where
  window : s.WindowOk
  agent : s.agent a = g
  prog : g.uprog = .acq :: (body ++ [.rel])
  upc : g.upc = 1
  kinds : ∀ op ∈ body, op.inBody = true
  places : AccessesOnly (· ∈ W) body
  stored : ∀ p ∈ W, s.StoredPlace p

theorem State.BodyStart.uprog_ne_nil (h : s.BodyStart a g W body) : g.uprog ≠ [] := by
  rw [h.prog]
  exact nofun

theorem State.BodyStart.inBody (h : s.BodyStart a g W body) : s.InBody a g W body s [] := by
  refine .inl ⟨0, _, Nat.zero_le _, rfl, ⟨rfl, rfl, rfl, ?_, fun p _ => ?_⟩, rfl⟩
  · rw [h.agent, Agent.bodyPart, h.upc]
    rfl
  · cases p <;> rfl

/-- The agent's own step inside its body. -/
theorem State.BodyStart.ownStep (h : s.BodyStart a g W body) {k : Nat} {L : Local} {i : Instr}
    {l es : List Event} (hk : k ≤ body.length)
    (hL : L = Local.run s a g ⟨id, s.csr, s.ext, []⟩ (body.take k))
    (htracks : s.Tracks a g W (k + 1) L u)
    (hes : es.filter (Event.writesOrWaits a) = L.log.filter (Event.writesOrWaits a)) (hturn : u.turn = a)
    (hexec : exec i u = .next t) (hhist : t.history = u.history ++ l) :
    s.InBody a g W body t (es ++ l) := by
  subst hturn
  rcases exec_cases i u with ⟨-, hcase⟩ | ⟨⟨-, hidle⟩, -⟩ | ⟨op, -, hne, hop, hcase⟩
  · obtain rfl := Host.Outcome.next.inj (hcase.symm.trans hexec)
    obtain rfl := List.self_eq_append_right.mp hhist
    exact .inl ⟨k, L, hk, hL, htracks, by rw [List.append_nil, hes]⟩
  · exact absurd (htracks.uprog.symm.trans (of_decide_eq_true hidle)) h.uprog_ne_nil
  · have hrun := hcase.symm.trans hexec
    rw [State.currentOp, htracks.uprog, htracks.upc, h.prog, List.getElem?_cons_succ] at hop
    rcases Nat.lt_or_eq_of_le hk with hlt | rfl
    · rw [List.getElem?_append_left hlt] at hop
      have hmem := List.mem_of_getElem? hop
      obtain ⟨hnext, l', hhist', hlog⟩ := htracks.ownOp h.window h.stored (h.kinds op hmem)
        (h.places op hmem) (by rw [h.prog]; simp; omega) h.uprog_ne_nil hrun
      obtain rfl := List.append_cancel_left (hhist.symm.trans hhist')
      refine .inl ⟨k + 1, _, hlt, ?_, hnext, ?_⟩
      · rw [List.take_add_one, hop, Local.run_append, ← hL]
        rfl
      · rw [hlog, List.filter_append, List.filter_append, hes]
    · obtain ⟨f, hf, hself⟩ := (runOp_opStep hrun).agent_self hne
      refine .inr ?_
      have hcpc := (hf.last (g := u.agent u.turn) (by rw [htracks.upc, htracks.uprog, h.prog]; simp)).2.2
      rw [hself, hcpc, htracks.cpc]
      exact Nat.lt_succ_self _

/-- Every step of the machine that disturbs nothing keeps the agent in its body or past its command. -/
theorem State.BodyStart.step (h : s.BodyStart a g W body) {es l : List Event}
    (hin : s.InBody a g W body u es) (hstep : step u = .next t) (hhist : t.history = u.history ++ l)
    (hund : ∀ e ∈ l, e.Undisturbing a (W.map (s.bodyAddr g))) : s.InBody a g W body t (es ++ l) := by
  rcases hin with ⟨k, L, hk, hL, htracks, hes⟩ | hpast
  swap
  · exact .inr (lt_of_lt_of_le hpast (step_cpc_le hstep a))
  obtain ⟨m, rest, hmover, hm⟩ := step_stepOf hstep
  obtain ⟨m', rest', hmover', hcase⟩ := step_cases hstep
  obtain ⟨rfl, rfl⟩ := Prod.mk.inj (Option.some.inj (hmover.symm.trans hmover'))
  have hbegun := htracks.begin h.uprog_ne_nil h.stored m rest
  have hhist' : t.history = (u.begin m rest).history ++ l := by rw [State.begin_history, hhist]
  by_cases hma : m = a
  · subst hma
    rcases hcase with ⟨i, -, hexec⟩ | ⟨reason, -, rfl⟩
    · exact h.ownStep hk hL hbegun hes (u.begin_turn m rest) hexec hhist'
    · obtain rfl : [Event.refuse m reason] = l := List.append_cancel_left hhist'
      have hpart := State.agent_modAgent_keeps (u.begin m rest) m m
        (f := fun g => { g with refused := some reason }) Agent.bodyPart fun _ => rfl
      refine .inl ⟨k, L, hk, hL, hbegun.of_same rfl ⟨rfl, rfl⟩ hpart fun p hp =>
        State.wordAt_congr (h.stored p hp).2 rfl rfl, ?_⟩
      rw [List.filter_append, hes]
      exact List.append_nil _
  · have hnone := filter_writesOrWaits_of_other ((hm.keeps_other (Ne.symm hma)).2 l hhist)
    refine .inl ⟨k, L, hk, hL, ?_, by rw [List.filter_append, hnone, List.append_nil, hes]⟩
    rcases hcase with ⟨i, -, hexec⟩ | ⟨reason, -, rfl⟩
    · refine hbegun.otherStep h.window h.stored (by rwa [State.begin_turn]) hexec fun e he => hund e ?_
      rw [List.append_cancel_left (hhist'.symm.trans he)]
      exact List.mem_singleton_self e
    · exact hbegun.of_same rfl ⟨rfl, rfl⟩
        (congrArg _ (State.agent_modAgent_other _ m a
          (fun g => { g with refused := some reason }) (Ne.symm hma)))
        fun p hp => State.wordAt_congr (h.stored p hp).2 rfl rfl

/-- A run that disturbs nothing, from just past ACQ to before REL: the agent's writes and waits, and the
words, are those of its body. -/
theorem State.BodyStart.run (h : s.BodyStart a g W body) (hreach : Reaches s t) {es : List Event}
    (hhist : t.history = s.history ++ es)
    (hund : ∀ e ∈ es, e.Undisturbing a (W.map (s.bodyAddr g)))
    (hupc : (t.agent a).upc = body.length + 1)
    (hcpc : (t.agent a).cpc = g.cpc) {L : Local}
    (hL : Local.run s a g ⟨id, s.csr, s.ext, []⟩ body = L) :
    es.filter (Event.writesOrWaits a) = L.log.filter (Event.writesOrWaits a) ∧
      ∀ p ∈ W, t.wordAt p = L.word s p := by
  have hkeeps : ∃ es', t.history = s.history ++ es' ∧
      ((∀ e ∈ es', e.Undisturbing a (W.map (s.bodyAddr g))) → s.InBody a g W body t es') := by
    refine hreach.keeps (P := fun u => ∃ es', u.history = s.history ++ es' ∧
      ((∀ e ∈ es', e.Undisturbing a (W.map (s.bodyAddr g))) → s.InBody a g W body u es'))
      (fun u u' ⟨es', hes', hin⟩ hstep => ?_) ⟨[], (List.append_nil _).symm, fun _ => h.inBody⟩
    obtain ⟨m, rest, -, hm⟩ := step_stepOf hstep
    obtain ⟨l, hl⟩ : ∃ l, u'.history = u.history ++ l := by
      rcases hm.history_append with hnone | ⟨e, hone, -⟩
      · exact ⟨[], by rw [hnone, List.append_nil]⟩
      · exact ⟨[e], hone⟩
    refine ⟨es' ++ l, by rw [hl, hes', List.append_assoc], fun hall => ?_⟩
    obtain ⟨hall', hl'⟩ := List.forall_mem_append.mp hall
    exact h.step (hin hall') hstep hl hl'
  obtain ⟨es', hes', hin⟩ := hkeeps
  obtain rfl := List.append_cancel_left (hhist.symm.trans hes')
  rcases hin hund with ⟨k, L', hk, hL', htracks, hlog⟩ | hpast
  · obtain rfl : k = body.length := Nat.succ.inj (htracks.upc.symm.trans hupc)
    rw [List.take_length, hL] at hL'
    subst hL'
    exact ⟨hlog, htracks.words⟩
  · exact absurd hcpc hpast.ne'

end

/-! ## The two guarded commands -/

section
variable {s : State} {a : AgentId} {g : Agent}

/-- Words A and B are stored. -/
theorem State.storedPlace_rst (s : State) :
    ∀ p ∈ [Place.reg .rstclk, .reg .blken], s.StoredPlace p := by
  simp [State.StoredPlace, State.BodyPlace]

theorem State.bodyStart_toggle (hw : s.WindowOk) (hag : s.agent a = g)
    (hprog : g.uprog = toggleResetProg) (hupc : g.upc = 1) : s.BodyStart a g [.reg .rstclk, .reg .blken] toggleBody where
  window := hw
  agent := hag
  prog := hprog.trans toggleResetProg_eq
  upc := hupc
  kinds op hop := (toggleBody_isBody s op hop).1
  places := by
    simp [toggleBody, readRst, setRst, maskedWrite, AccessesOnly, MicroOp.place]
  stored := s.storedPlace_rst

theorem State.bodyStart_bringup (hw : s.WindowOk) (hag : s.agent a = g)
    (hprog : g.uprog = bringupProg s.cfg) (hupc : g.upc = 1) (hfixup : s.BodyPlace .fixup) :
    s.BodyStart a g [.reg .rstclk, .reg .blken, .fixup] (bringupBody s.cfg) where
  window := hw
  agent := hag
  prog := hprog.trans (bringupProg_eq s.cfg)
  upc := hupc
  kinds op hop := (bringupBody_isBody hfixup op hop).1
  places := by
    simp [bringupBody, bringupStep1, bringupStep2, bringupStep6, bringupStep7, bringupRelease,
      changeRst, setClkConst, setClk, readRst, setRst, maskedWrite, AccessesOnly, MicroOp.place]
  stored p hp := by
    rcases List.mem_append.mp (show p ∈ [Place.reg .rstclk, .reg .blken] ++ [.fixup] from hp) with
      hp | hp
    · exact s.storedPlace_rst p hp
    · obtain rfl := List.mem_singleton.mp hp
      exact ⟨hfixup, nofun⟩

end

theorem State.agent_of_lookup {s : State} {a : AgentId} {g : Agent}
    (h : lookupAgent s.agents a = some g) : s.agent a = g := by
  simp [State.agent, h]

/-- Settles O34: the run is the body of TOGGLE_RESET as far as the agent and its two words go, and the
body's words and events are those of `run_toggleBody`. -/
theorem toggleTraceHoldsInEveryUndisturbedRun : Obligations.ToggleTraceHoldsInEveryUndisturbedRun := by
  intro s t a g h hw hlookup hprog hupc hreach hhist hund _ hupc' hcpc a₀ b₀ m r ha₀ hb₀ hm hr
  have hstart := State.bodyStart_toggle hw (State.agent_of_lookup hlookup) hprog hupc
  have hdecode : r = rstDecode a₀ b₀ := by rw [hr, ha₀, hb₀]; rfl
  have hbody := run_toggleBody s a g (es := []) ha₀ hb₀ hm hdecode rfl rfl rfl rfl
  obtain ⟨hlog, hwords⟩ := hstart.run hreach hhist hund hupc' hcpc hbody
  have hA := hwords (.reg .rstclk) (by simp)
  have hB := hwords (.reg .blken) (by simp)
  refine ⟨hlog.trans ?_, ?_⟩
  · simp only [List.nil_append, List.filter_cons, List.filter_nil, Event.writesOrWaits, decide_true,
      if_true, if_false, Bool.false_eq_true]
    rfl
  · refine (congrArg₂ rstDecode hA hB).trans ?_
    exact rstDecode_maskedValue a₀ b₀ (r &&& ~~~m)

/-- Settles O35: the run is the body of BRINGUP as far as the agent and its three words go, and the body's
words are those of `run_bringupBody`. -/
theorem bringupEndStateHoldsInEveryUndisturbedRun :
    Obligations.BringupEndStateHoldsInEveryUndisturbedRun := by
  intro s t a g e h hw hlookup hprog hupc he hout hreach hhist hund _ hupc' hcpc
  obtain ⟨L, hL⟩ : ∃ L, Local.run s a g ⟨id, s.csr, s.ext, []⟩ (bringupBody s.cfg) = L := ⟨_, rfl⟩
  have hfixup : s.BodyPlace .fixup := ⟨e, he, hout⟩
  have haddr : s.bodyAddr g .fixup = BitVec.ofNat 64 e := by simp [State.bodyAddr, State.placeAddr, he]
  have hstart := State.bodyStart_bringup hw (State.agent_of_lookup hlookup) hprog hupc hfixup
  obtain ⟨-, hwords⟩ := hstart.run hreach hhist (by rw [← haddr] at hund; exact hund) hupc' hcpc hL
  obtain ⟨hcsr, hext, -⟩ := run_bringupBody hw hfixup rfl rfl rfl hL
  have hA := hwords (.reg .rstclk) (by simp)
  have hB := hwords (.reg .blken) (by simp)
  have hX := hwords .fixup (by simp)
  refine ⟨hA.trans ?_, hB.trans ?_, hX.trans hext⟩
  · show L.csr.rstclk = _
    rw [hcsr, bringupResets_last, wordA_end hw.1]
    rfl
  · show L.csr.blken = _
    rw [hcsr, bringupResets_last]
    rfl

end Sys2Proof.Machine
end
